-- ==== Sys2Proof/Word.lean ====
section
/-!
DEFINITION. The words and records the spec passes around (00_scope.md section 7, types;
30_encoding.md section 5). All values are unsigned.
-/

namespace Sys2Proof

/-- 8-bit unsigned, 0 to 255: a register byte, a codec operand, a register offset (R7, R50). -/
abbrev Byte := BitVec 8

/-- The 64-bit payload of a command or a response, `cmd_data` and `rsp_data` (R90). -/
abbrev Payload := BitVec 64

/-- The one command format CMD: `cmd_op` in bits 66 to 64, `cmd_data` in bits 63 to 0 (R92). -/
abbrev Command := BitVec 67

/-- The calendar value (R102, R103): six 8-bit fields and a 16-bit absolute year. No identity beyond its
field values. -/
structure DateTime where
  sec   : Byte
  min   : Byte
  hour  : Byte
  day   : Byte
  wday  : Byte
  month : Byte
  year  : BitVec 16
  deriving DecidableEq, Repr

/-- The seven time bytes (R104): `b0` Seconds, `b1` Minutes, `b2` Hours, `b3` Day, `b4` Weekday,
`b5` Month with the century bit, `b6` Year. On the bus `b<i>` is the byte at offset 0x02 + i. -/
structure RegisterBlock where
  b0 : Byte
  b1 : Byte
  b2 : Byte
  b3 : Byte
  b4 : Byte
  b5 : Byte
  b6 : Byte
  deriving DecidableEq, Repr

/-- The bytes of a block in the order they travel, ascending offset (R60). -/
def RegisterBlock.toList (B : RegisterBlock) : List Byte :=
  [B.b0, B.b1, B.b2, B.b3, B.b4, B.b5, B.b6]

/-- Seven zero bytes. -/
def RegisterBlock.zero : RegisterBlock := ⟨0, 0, 0, 0, 0, 0, 0⟩

end Sys2Proof
end

