-- ==== Sys2Proof/Syntax.lean ====
section
/-!
DEFINITION. The eight operations of the block (00_scope.md R5), one constructor per row of
spec/opcode_table.json. An operation carries its operand and nothing of the payload bits it ignores
(30_encoding.md R93, R94).
-/

namespace Sys2Proof

/-- The eight operations (R5, R91). -/
inductive Instr where
  | bcdenc (v : Byte)           -- code 0, R130: decimal to packed BCD
  | bcddec (b : Byte)           -- code 1, R133: packed BCD to decimal
  | renc   (t : DateTime)       -- code 2, R147: DateTime to the seven register bytes
  | rdec   (B : RegisterBlock)  -- code 3, R151: the seven register bytes to DateTime
  | init                        -- code 4, R160: clear the two control/status registers
  | read                        -- code 5, R164: read the time block and decode it
  | write  (t : DateTime)       -- code 6, R168: encode a DateTime and write the time block
  | close                       -- code 7, R172: answers OK and does nothing
  deriving DecidableEq, Repr

end Sys2Proof
end

