-- ==== Sys2Proof/WellFormed.lean ====
section
/-!
DEFINITION. Which commands can be written down (30_encoding.md R112). Every value of `Instr` fits its
containers by its type, so every `Instr` is well-formed; what can be ill-formed is a command line, whose
operands are numerals. `Line` is the written form, and `Line.wellFormed` says that every numeral fits the
container R102, R104 or R7 gives it and that a RegisterBlock has seven bytes. The ranges of R146 are NOT
checked here: an out-of-range DateTime is a command the block answers with INVALID_VALUE (R107).
DEDUCED, log 18.
-/

namespace Sys2Proof

/-- A DateTime operand as written: seven numerals in the order of R112. -/
structure DateTimeText where
  sec   : Nat
  min   : Nat
  hour  : Nat
  day   : Nat
  wday  : Nat
  month : Nat
  year  : Nat
  deriving DecidableEq, Repr

/-- One line of a command sequence (R112): the mnemonic, then the operand. -/
inductive Line where
  | bcdenc (v : Nat)
  | bcddec (b : Nat)
  | renc   (t : DateTimeText)
  | rdec   (bytes : List Nat)
  | init
  | read
  | write  (t : DateTimeText)
  | close
  deriving DecidableEq, Repr

/-- A numeral that fits a `Byte`. -/
def fitsByte (n : Nat) : Bool := n < 256

/-- Every field of a written DateTime fits its container (R102): six bytes and a 16-bit year. -/
def DateTimeText.fits (t : DateTimeText) : Bool :=
  fitsByte t.sec && fitsByte t.min && fitsByte t.hour && fitsByte t.day && fitsByte t.wday
    && fitsByte t.month && t.year < 65536

/-- The check on a command line. -/
def Line.wellFormed : Line → Bool
  | .bcdenc v => fitsByte v
  | .bcddec b => fitsByte b
  | .renc t   => t.fits
  | .rdec bs  => bs.length == 7 && bs.all fitsByte
  | .init     => true
  | .read     => true
  | .write t  => t.fits
  | .close    => true

/-- A DateTime as R112 writes it. -/
def DateTime.toText (t : DateTime) : DateTimeText :=
  ⟨t.sec.toNat, t.min.toNat, t.hour.toNat, t.day.toNat, t.wday.toNat, t.month.toNat, t.year.toNat⟩

/-- The line that writes an operation. -/
def Instr.toLine : Instr → Line
  | .bcdenc v => .bcdenc v.toNat
  | .bcddec b => .bcddec b.toNat
  | .renc t   => .renc t.toText
  | .rdec B   => .rdec (B.toList.map BitVec.toNat)
  | .init     => .init
  | .read     => .read
  | .write t  => .write t.toText
  | .close    => .close

/-- An operation is well-formed when the line that writes it is. Its operand types make this true of every
operation (Laws/Encoding.lean, `Instr.wellFormed_all`): no command of the block is malformed (R91, R107). -/
def Instr.wellFormed (i : Instr) : Bool := i.toLine.wellFormed

end Sys2Proof
end

