-- ==== Sys2Proof/Decode.lean ====
section
/-!
DEFINITION. Decoding and encoding of commands (30_encoding.md sections 2 and 5), the packing of the DateTime
record and of the RegisterBlock into a 64-bit payload (R102, R104), and the assembling of a written line (R112).
-/

namespace Sys2Proof

/-- The DateTime record in a payload (R102): `sec` in bits 7:0 up to `year` in bits 63:48. -/
def DateTime.ofPayload (p : Payload) : DateTime where
  sec   := p.extractLsb' 0 8
  min   := p.extractLsb' 8 8
  hour  := p.extractLsb' 16 8
  day   := p.extractLsb' 24 8
  wday  := p.extractLsb' 32 8
  month := p.extractLsb' 40 8
  year  := p.extractLsb' 48 16

/-- The payload that holds a DateTime record (R102). -/
def DateTime.toPayload (t : DateTime) : Payload :=
  t.year ++ t.month ++ t.wday ++ t.day ++ t.hour ++ t.min ++ t.sec

/-- The RegisterBlock in seven packed bytes (R104): `B[i]` in bits 8i+7:8i. -/
def RegisterBlock.ofPacked (p : BitVec 56) : RegisterBlock where
  b0 := p.extractLsb' 0 8
  b1 := p.extractLsb' 8 8
  b2 := p.extractLsb' 16 8
  b3 := p.extractLsb' 24 8
  b4 := p.extractLsb' 32 8
  b5 := p.extractLsb' 40 8
  b6 := p.extractLsb' 48 8

/-- The seven bytes packed, `B[i]` in bits 8i+7:8i (R104; also `bus_req_wdata`, R90). -/
def RegisterBlock.toPacked (B : RegisterBlock) : BitVec 56 :=
  B.b6 ++ B.b5 ++ B.b4 ++ B.b3 ++ B.b2 ++ B.b1 ++ B.b0

/-- `cmd[66:64]`, the command code (R92). -/
def commandCode (c : Command) : BitVec 3 := c.extractLsb' 64 3

/-- `cmd[63:0]`, the payload (R92). -/
def commandData (c : Command) : Payload := c.extractLsb' 0 64

/-- The operation of a code and a payload (R91, R93). All eight codes are used, so the last branch is code 7
and nothing else (R91). Payload bits an operation does not use are dropped (R94). -/
def decodeFields (op : BitVec 3) (arg : Payload) : Instr :=
  if op = 0 then .bcdenc (arg.extractLsb' 0 8)
  else if op = 1 then .bcddec (arg.extractLsb' 0 8)
  else if op = 2 then .renc (DateTime.ofPayload arg)
  else if op = 3 then .rdec (RegisterBlock.ofPacked (arg.extractLsb' 0 56))
  else if op = 4 then .init
  else if op = 5 then .read
  else if op = 6 then .write (DateTime.ofPayload arg)
  else .close

/-- The decoder of a 67-bit command: total (R91, R92). -/
def decode (c : Command) : Instr := decodeFields (commandCode c) (commandData c)

/-- The command code of an operation (R91). -/
def Instr.code : Instr → BitVec 3
  | .bcdenc _ => 0
  | .bcddec _ => 1
  | .renc _   => 2
  | .rdec _   => 3
  | .init     => 4
  | .read     => 5
  | .write _  => 6
  | .close    => 7

/-- The payload of an operation (R93), with 0 in the bits the block ignores (R94). -/
def Instr.payload : Instr → Payload
  | .bcdenc v => v.setWidth 64
  | .bcddec b => b.setWidth 64
  | .renc t   => t.toPayload
  | .rdec B   => B.toPacked.setWidth 64
  | .init     => 0
  | .read     => 0
  | .write t  => t.toPayload
  | .close    => 0

/-- The encoder: the command of an operation (R92). -/
def encode (i : Instr) : Command := i.code ++ i.payload

/-- Why a string of bits is no command. -/
inductive DecodeReject where
  | tooLong    -- more whole bytes than a 67-bit command fills: there is no other length (R92)
  | strayBits  -- a bit above bit 66 is set: no such bit exists in the format (R92)
  deriving DecidableEq, Repr

/-- Decoding of `nbits` bits with value `w`, numbered as spec/opcode_table.json numbers them. A command fills
nine whole bytes, 72 bits, of which bits 71 to 67 do not exist. Log 19. -/
def decodeBits (nbits w : Nat) : Except DecodeReject Instr :=
  if 72 < nbits then .error .tooLong
  else if 2 ^ 67 ≤ w then .error .strayBits
  else .ok (decode (BitVec.ofNat 67 w))

/-- The instruction the decoder reads from a table word, `none` where it refuses. -/
def decodeTableWord (nbits w : Nat) : Option Instr :=
  match decodeBits nbits w with
  | .ok i    => some i
  | .error _ => none

/-- The DateTime a written one stands for. -/
def DateTimeText.toDateTime (t : DateTimeText) : DateTime where
  sec   := BitVec.ofNat 8 t.sec
  min   := BitVec.ofNat 8 t.min
  hour  := BitVec.ofNat 8 t.hour
  day   := BitVec.ofNat 8 t.day
  wday  := BitVec.ofNat 8 t.wday
  month := BitVec.ofNat 8 t.month
  year  := BitVec.ofNat 16 t.year

/-- Seven written bytes as a RegisterBlock. -/
def RegisterBlock.ofText : List Nat → Option RegisterBlock
  | [a, b, c, d, e, f, g] =>
    some ⟨BitVec.ofNat 8 a, BitVec.ofNat 8 b, BitVec.ofNat 8 c, BitVec.ofNat 8 d, BitVec.ofNat 8 e,
      BitVec.ofNat 8 f, BitVec.ofNat 8 g⟩
  | _ => none

/-- The operation a written line stands for (R112), `none` for a line that is not well-formed. -/
def Line.assemble (l : Line) : Option Instr :=
  if l.wellFormed then
    match l with
    | .bcdenc v => some (.bcdenc (BitVec.ofNat 8 v))
    | .bcddec b => some (.bcddec (BitVec.ofNat 8 b))
    | .renc t   => some (.renc t.toDateTime)
    | .rdec bs  => (RegisterBlock.ofText bs).map .rdec
    | .init     => some .init
    | .read     => some .read
    | .write t  => some (.write t.toDateTime)
    | .close    => some .close
  else none

end Sys2Proof
end

