-- ==== Sys2Proof/Config.lean ====
section
/-!
DEFINITION. What the integrator fixes (00_scope.md R7, R8; 92_eei_decisions.md D7, D8) and the free values
of the spec (93_implementation_defined.md, treatment `any value`). A constant without a body has no value a
proof can see: what is proved about it holds whatever it is.
-/

namespace Sys2Proof

/-- `DEV_ADDR`, the device address in every bus transaction: an open parameter (R7, D7). Log 4. -/
opaque Config.devAddr : BitVec 8

/-- `BUSERR_W`, the width of the bus error code at signal level: an open parameter (R7, D8, U5). Its default 8 is
not taken: no proof can see a value, so a claim holds for every width. Log 5. -/
opaque Config.buserrW : Nat

/-- The opaque error value of a failing transaction (R58). No definition of the model looks inside it. -/
abbrev BusErr := BitVec Config.buserrW

/-- The answer to one transaction (R56, R57). `ok` carries the seven bytes a read delivers; a write's answer
has no bytes, and nothing reads them there (R99). A shorter read is no answer at all (R56, U10). Log 15. -/
inductive BusResult where
  | ok  (bytes : RegisterBlock)
  | err (e : BusErr)
  deriving DecidableEq, Repr

/-- FREE VALUE. The unconstrained oracle of R70: its answer to the n-th transaction it is asked, `none` for an
answer that never comes (U4, U5, U6, U11). Log 6. -/
opaque Config.oracle : Nat → Option BusResult

/-- FREE VALUE. What a chip register at an offset holds while nothing known has been written there (R40, U18).
Log 7. -/
opaque Config.chipByte : Nat → Byte

/-- FREE VALUE. The bits of `rsp_data` that have no meaning for the status at hand (R96, U9), one draw per
response. Log 14. -/
opaque Config.freeRspData : Nat → BitVec 64

/-- FREE VALUE. `rsp_buserr` when the status is not BUS_ERROR (R96, U9). Log 14. -/
opaque Config.freeRspErr : Nat → BusErr

/-- FREE VALUE. `rsp_status` while no response is offered (R90). Log 14. -/
opaque Config.freeRspStatus : Nat → BitVec 2

/-- FREE VALUE. The bits of `bus_req_wdata` that have no meaning for the request at hand (R90, R99). Log 14. -/
opaque Config.freeBusData : Nat → BitVec 56

/-- FREE VALUE. The other fields of the request port while no transaction is outstanding (R90): the kind, the
offset and the length. Log 14. -/
opaque Config.freeBusReq : Nat → BitVec 12

end Sys2Proof
end

