-- ==== Sys2Proof/Machine/State.lean ====
section
/-!
DEFINITION. The state of the machine (10_state.md) as plain data: the block's own latches, the chip's
registers, the ports and the environment the step reads, and two records the model keeps. Its value after reset.
-/

namespace Sys2Proof.Machine

/-- The sequencer register `phase` (R23). -/
inductive Phase where
  | idle    -- no operation; a command can be accepted
  | exec    -- a command is latched; computation and operand validation
  | initW1  -- INIT's first write, T1, is outstanding
  | initW2  -- INIT's second write, T2, is outstanding
  | rdWait  -- READ's 7-byte read, T3, is outstanding
  | wrWait  -- WRITE's 7-byte write, T4, is outstanding
  | resp    -- the response is ready and not yet taken
  deriving DecidableEq, Repr

/-- One Bus Capability transaction, to the device `DEV_ADDR` (R56, R57, R99). -/
inductive Request where
  | read  (reg : Byte) (len : Nat)
  | write (reg : Byte) (bytes : List Byte)
  deriving DecidableEq, Repr

/-- The result payload of a response (R96). -/
inductive Result where
  | nothing                       -- INIT, WRITE, CLOSE
  | byte     (b : Byte)           -- BCDENC: packed BCD; BCDDEC: decimal value
  | block    (B : RegisterBlock)  -- RENC
  | dateTime (t : DateTime)       -- RDEC, READ
  deriving DecidableEq, Repr

/-- A response as the tagged value of R96. Bits that have no meaning for a status do not exist here (U9). -/
inductive Response where
  | ok           (v : Result)
  | busError     (e : BusErr)
  | lowVoltage   (t : DateTime)
  | invalidValue
  deriving DecidableEq, Repr

/-- How the bus answers one transaction: an input of the machine, free in every statement (R70).
Log 6. -/
inductive Answer where
  | stored                        -- as StoreBus answers it (R71), from `chip`
  | bytes (B : RegisterBlock)     -- Ok; for a read, with these seven bytes whatever `chip` holds
  | err   (e : BusErr)            -- Err(e)
  | never                         -- no answer, now or later (R232)
  deriving DecidableEq, Repr

/-- The target that answers when no answer is given in advance (R70, R71). -/
inductive Target where
  | oracle                        -- the unconstrained oracle, `Config.oracle`
  | storeBus                      -- plain storage, never fails
  | failBus (e : BusErr)          -- every transaction fails with `e`, nothing is stored
  deriving DecidableEq, Repr

/-- The chip's registers: (offset, byte) pairs, offsets strictly rising, only what has been written (R50, R51).
What an unlisted offset holds is not known (R40). Log 7. -/
abbrev Memory := List Host.Cell

/-- Why the machine stops with a fault. -/
inductive Fault where
  /-- Raised by every meaning when it is run in a phase from which R174, "the complete edge list", gives its
  operation no edge (a READ in WR_WAIT, say). No run from a consistent state reaches one. Safe: it stops where
  the spec describes nothing. Log 13. -/
  | noEdge
  deriving DecidableEq, Repr

/-- Why the machine refuses a step. -/
inductive Refusal where
  /-- Raised by an arm of `exec` that has no meaning yet. Safe. No arm does. -/
  | notModelled (mnemonic : String)
  /-- Raised by the step when `rst` is asserted while an operation is in flight: the spec gives that no meaning
  (R41) and asks a model to refuse it (U12). Safe here; the assumption that a host never does it is the spec's.
  Log 12. -/
  | resetWhileBusy
  deriving DecidableEq, Repr

/-- The whole state. -/
structure State where
  /-- The sequencer register (R23). -/
  phase       : Phase
  /-- The latched command code (R22). -/
  op          : BitVec 3
  /-- The latched operand payload (R22). -/
  arg         : Payload
  /-- The RegisterBlock of the READ or WRITE in flight (R24). -/
  blk         : RegisterBlock
  /-- The response, held in RESP until the host takes it (R25). -/
  rsp         : Response
  /-- `bus_req_valid`: the outstanding transaction's request has not transferred yet (R90, R100). Log 9. -/
  reqValid    : Bool
  /-- The chip's registers as last written through the bus (R32, R57, R71). Log 8. -/
  chip        : Memory
  /-- Input `rst` (R90, R220). -/
  rst         : Bool
  /-- The commands the host offers, in order: the head is on `cmd_op` and `cmd_data`, and `cmd_valid` is 1 as
  long as there is one (R90, R95). -/
  cmds        : List Command
  /-- Input `rsp_ready`: the host takes a response that is offered (R90). -/
  rspReady    : Bool
  /-- Input `bus_req_ready`: the transport accepts a request that is offered (R90). -/
  busReqReady : Bool
  /-- The answers to the next transactions, in order. -/
  answers     : List Answer
  /-- What answers once `answers` is used up. -/
  target      : Target
  /-- The model's own: how many transactions the oracle has answered, the argument of its next draw. Log 21. -/
  draw        : Nat
  /-- The model's own record: the responses the host has taken, oldest first (R95). Log 16. -/
  delivered   : List Response
  /-- The model's own record: the transactions issued, oldest first (R59, R176). Log 16. -/
  busLog      : List Request
  deriving DecidableEq, Repr

/-- The machine right after reset (R38, R39, R40): idle, nothing outstanding, nothing pending, the chip's
content unknown. The latches that hold "no value (dead)" hold zero (DESIGN CHOICE, log 3); the environment
offers no command and answers through the oracle (DESIGN CHOICE, log 2, 6, 10). -/
def State.reset : State where
  phase       := .idle
  op          := 0
  arg         := 0
  blk         := RegisterBlock.zero
  rsp         := .ok .nothing
  reqValid    := false
  chip        := []
  rst         := false
  cmds        := []
  rspReady    := true
  busReqReady := true
  answers     := []
  target      := .oracle
  draw        := 0
  delivered   := []
  busLog      := []

end Sys2Proof.Machine
end

