-- ==== Sys2Proof/Machine/Flags.lean ====
section
/-!
DEFINITION. The flag-like values of the block (10_state.md R29): the low-voltage bit and the century bit of a
RegisterBlock, and the status of a response. None of them is stored anywhere but in the value it is read from.
-/

namespace Sys2Proof.Machine

/-- VL, bit 7 of the raw Seconds byte, before masking (R142). -/
def lowVoltageBit (B : RegisterBlock) : Bool := B.b0.getLsbD 7

/-- C, bit 7 of the raw Month byte (R143): clear means 1900s, set means 2000s. -/
def centuryBit (B : RegisterBlock) : Bool := B.b5.getLsbD 7

/-- The year the century bit stands for, added to the two-digit year (R144). -/
def centuryBase (c : Bool) : BitVec 16 := if c then 2000 else 1900

/-- The century bit of an absolute year, in place in the Month byte (R145). -/
def centuryMask (year : BitVec 16) : Byte := if 2000 ≤ year then 0x80 else 0x00

/-- The status code of a response (R97). -/
def Response.status : Response → BitVec 2
  | .ok _         => 0
  | .busError _   => 1
  | .lowVoltage _ => 2
  | .invalidValue => 3

end Sys2Proof.Machine
end

