-- ==== Sys2Proof/Machine/Operands.lean ====
section
/-!
DEFINITION. The operand forms of the block: the packed BCD byte (40_bcd_codec.md), and the register map with
its masks, century policy and validation (41_regmap_codec.md).
-/

namespace Sys2Proof.Machine

/-- `bcd_enc(v)`, defined for 0 to 99 only (R131, R132): tens digit in the high nibble, ones in the low. -/
def bcdEnc (v : Byte) : Option Byte :=
  if v ≤ 99 then some (((v / 10) <<< 4) ||| (v % 10)) else none

/-- `bcd_dec(b)`, defined for every byte (R134): high nibble times ten plus low nibble, at most 165. Log 25. -/
def bcdDec (b : Byte) : Byte :=
  (b.extractLsb' 4 4).setWidth 8 * 10 + (b.extractLsb' 0 4).setWidth 8

/-- `valid_dt(t)` (R146): each field alone against its range, no calendar check. -/
def validDt (t : DateTime) : Bool :=
  t.sec ≤ 59 && t.min ≤ 59 && t.hour ≤ 23 && (1 ≤ t.day && t.day ≤ 31) && t.wday ≤ 6
    && (1 ≤ t.month && t.month ≤ 12) && (1900 ≤ t.year && t.year ≤ 2099)

/-- `year mod 100`, the two-digit year (R145). -/
def twoDigitYear (year : BitVec 16) : Byte := (year % 100).setWidth 8

/-- `blk_enc(t)`, defined when `valid_dt(t)` holds (R148, R150). -/
def blkEnc (t : DateTime) : Option RegisterBlock :=
  if validDt t then
    match bcdEnc t.sec, bcdEnc t.min, bcdEnc t.hour, bcdEnc t.day, bcdEnc t.wday, bcdEnc t.month,
      bcdEnc (twoDigitYear t.year) with
    | some s, some mi, some h, some d, some w, some mo, some y =>
      some ⟨s &&& 0x7F, mi, h, d, w, mo ||| centuryMask t.year, y⟩
    | _, _, _, _, _, _, _ => none
  else none

/-- The fields of `blk_dec(B)` (R141, R144, R152), each under its valid-bit mask (R140). The low-voltage bit
that `blk_dec` returns beside them is `lowVoltageBit B`. -/
def blkFields (B : RegisterBlock) : DateTime where
  sec   := bcdDec (B.b0 &&& 0x7F)
  min   := bcdDec (B.b1 &&& 0x7F)
  hour  := bcdDec (B.b2 &&& 0x3F)
  day   := bcdDec (B.b3 &&& 0x3F)
  wday  := bcdDec (B.b4 &&& 0x07)
  month := bcdDec (B.b5 &&& 0x1F)
  year  := (bcdDec (B.b6 &&& 0xFF)).setWidth 16 + centuryBase (centuryBit B)

/-- `blk_dec(B)`, defined for every RegisterBlock (R152, R153). -/
def blkDec (B : RegisterBlock) : DateTime × Bool := (blkFields B, lowVoltageBit B)

end Sys2Proof.Machine
end

