-- ==== Sys2Proof/Machine/Ops.lean ====
section
/-!
DEFINITION. The named operations over the state: the chip's memory (20_memory.md), the command and response
side of the sequencer (30_encoding.md sections 2 and 3), raising a condition (60_exceptions.md R196), the bus
side (R56, R57, R99, R100), and reset (R38, R220).
-/

namespace Sys2Proof.Machine

/-! ### The chip's registers -/

/-- The byte last written at an offset; `none` where nothing has been written. -/
def Memory.read : Memory → Nat → Option Byte
  | [], _ => none
  | (a, b) :: rest, x => if x = a then some b else Memory.read rest x

/-- Write one byte, keeping the offsets strictly rising. -/
def Memory.write : Memory → Nat → Byte → Memory
  | [], x, v => [(x, v)]
  | (a, b) :: rest, x, v =>
    if x < a then (x, v) :: (a, b) :: rest
    else if x = a then (a, v) :: rest
    else (a, b) :: Memory.write rest x v

/-- Write bytes at ascending offsets (R51, R57, R60). -/
def Memory.writeBytes : Memory → Nat → List Byte → Memory
  | m, _, [] => m
  | m, x, v :: vs => Memory.writeBytes (Memory.write m x v) (x + 1) vs

/-- Offsets strictly rising from `lo` on, every one below 256 (R50). -/
def Memory.rising : Nat → Memory → Bool
  | _, [] => true
  | lo, (a, _) :: rest => decide (lo ≤ a) && decide (a < 256) && Memory.rising (a + 1) rest

/-- The canonical form: offsets strictly rising inside the 8-bit offset space. An unlisted offset reads as no
known byte, so no entry can equal what an unlisted one reads as. Log 17. -/
def Memory.wf (m : Memory) : Bool := Memory.rising 0 m

/-- The byte StoreBus presents at an offset (R71): what was written there, else the unknown content the chip
started with (R40), a free value. -/
def Memory.present (m : Memory) (x : Nat) : Byte := (m.read x).getD (Config.chipByte x)

/-- Seven bytes at ascending offsets (R51, R60). -/
def Memory.presentBlock (m : Memory) (x : Nat) : RegisterBlock :=
  ⟨m.present x, m.present (x + 1), m.present (x + 2), m.present (x + 3), m.present (x + 4),
    m.present (x + 5), m.present (x + 6)⟩

/-! ### Commands, responses, reset -/

/-- The operation in flight: the decoding of the latched command (R22, R91). -/
def State.instr (s : State) : Instr := decodeFields s.op s.arg

/-- The block is busy when `phase` is not IDLE (R26). -/
def State.busy (s : State) : Bool := decide (s.phase ≠ .idle)

/-- Latch a command: `op <- cmd_op`, `arg <- cmd_data`, `phase <- EXEC` (R95). -/
def State.latch (s : State) (c : Command) : State :=
  { s with op := commandCode c, arg := commandData c, phase := .exec }

/-- The edge from IDLE (R95, R174): the command the host offers is accepted; with none offered the block
stays. -/
def State.accept (s : State) : State :=
  match s.cmds with
  | []      => s
  | c :: cs => ({ s with cmds := cs }).latch c

/-- The block as it is after reset (R38, R39): idle, nothing outstanding, the latches dead (log 3). The chip,
the ports and the records are left alone (R221). -/
def State.blockReset (s : State) : State :=
  { s with
    phase := .idle, op := 0, arg := 0, blk := RegisterBlock.zero, rsp := .ok .nothing, reqValid := false }

/-- A step with `rst` asserted (R220): an idle block is reset, and a command offered stays offered (DESIGN CHOICE,
log 22); a reset while busy has no meaning (R41, U12; log 12). -/
def resetEdge (s : State) : Host.Outcome State Fault Refusal :=
  if s.busy then .refused .resetWhileBusy else .next s.blockReset

/-- Produce the response: `rsp <- r`, `phase <- RESP`. With `.ok v` this is `return OK(v)` (R96); with any other
response it is `raise C(info)` (R196), the one way a condition is taken: nothing is saved, because there is
nothing to save. -/
def State.respond (s : State) (r : Response) : State := { s with rsp := r, phase := .resp }

/-- The edge from RESP (R25, R174): the host takes the response, and the block is idle and as after reset
(R199). Until the host is ready the response is held. -/
def State.takeResponse (s : State) : State :=
  if s.rspReady then { s.blockReset with delivered := s.delivered ++ [s.rsp] } else s

/-! ### The bus side -/

/-- The transaction outstanding in a phase (R37, R59): T1, T2, T3 or T4 in the four waiting phases, else none. -/
def Phase.request (p : Phase) (blk : RegisterBlock) : Option Request :=
  match p with
  | .initW1 => some (.write 0x00 [0x00])
  | .initW2 => some (.write 0x01 [0x00])
  | .rdWait => some (.read 0x02 7)
  | .wrWait => some (.write 0x02 blk.toList)
  | .idle   => none
  | .exec   => none
  | .resp   => none

/-- The outstanding transaction. -/
def State.request (s : State) : Option Request := s.phase.request s.blk

/-- Enter a waiting phase and issue its transaction (R99, R100). -/
def State.issue (s : State) (p : Phase) : State :=
  { s with phase := p, reqValid := true, busLog := s.busLog ++ (p.request s.blk).toList }

/-- The request transfers as soon as the transport accepts it (R100). -/
def State.transfer (s : State) : State :=
  if s.busReqReady then { s with reqValid := false } else s

/-- What StoreBus answers (R71): a read delivers the stored bytes, a write is Ok. -/
def State.storeAnswer (s : State) : BusResult :=
  match s.request with
  | some (.read reg _) => .ok (s.chip.presentBlock reg.toNat)
  | _                  => .ok RegisterBlock.zero

/-- The answer to the outstanding transaction (R56, R57, R70, R71); `none` when it does not come (R232). -/
def State.answer (s : State) : Option BusResult :=
  match s.answers with
  | .stored :: _  => some s.storeAnswer
  | .bytes B :: _ => some (.ok B)
  | .err e :: _   => some (.err e)
  | .never :: _   => none
  | [] =>
    match s.target with
    | .oracle    => Config.oracle s.draw
    | .storeBus  => some s.storeAnswer
    | .failBus e => some (.err e)

/-- The environment moves on to the answer of the next transaction. -/
def State.consume (s : State) : State :=
  match s.answers with
  | _ :: rest => { s with answers := rest }
  | [] =>
    match s.target with
    | .oracle    => { s with draw := s.draw + 1 }
    | .storeBus  => s
    | .failBus _ => s

/-- What an Ok answer says of the chip: a write's bytes stand at its offsets (R57); a read changes nothing.
DEDUCED, log 23 and 24. -/
def State.applyWrite (s : State) : State :=
  match s.request with
  | some (.write reg bytes) => { s with chip := s.chip.writeBytes reg.toNat bytes }
  | _                       => s

/-- A waiting phase (R100, R174, R232). The request transfers first. Then the block waits for the one answer: with
none it stays (DEDUCED, log 11); on Err(e) the operation ends with BUS_ERROR(e), `e` unchanged (R191); on Ok the
operation goes on as `k` says, with the bytes answered. -/
def await (k : RegisterBlock → State → State) (s : State) : Host.Outcome State Fault Refusal :=
  if s.reqValid then .next s.transfer
  else
    match s.answer with
    | none          => .next s
    | some (.err e) => .next (s.consume.respond (.busError e))
    | some (.ok B)  => .next (k B s.applyWrite.consume)

/-- The only edge of an operation without transactions (R174): EXEC to RESP with the response. -/
def compute (r : Response) (s : State) : Host.Outcome State Fault Refusal :=
  match s.phase with
  | .exec   => .next (s.respond r)
  | .idle   => .fault .noEdge
  | .initW1 => .fault .noEdge
  | .initW2 => .fault .noEdge
  | .rdWait => .fault .noEdge
  | .wrWait => .fault .noEdge
  | .resp   => .fault .noEdge

/-- The response to a decoded block, in RDEC and READ (R151, R164): LOW_VOLTAGE with the decoded DateTime when
VL is set, else OK with it. -/
def decodedResponse (B : RegisterBlock) : Response :=
  match blkDec B with
  | (t, true)  => .lowVoltage t
  | (t, false) => .ok (.dateTime t)

end Sys2Proof.Machine
end

