-- ==== Sys2Proof/Machine/Bcd.lean ====
section
/-!
DEFINITION. Unit U1 (40_bcd_codec.md): BCDENC and BCDDEC.
-/

namespace Sys2Proof.Machine

/-- BCDENC (R130): OK with the packed BCD byte for 0 to 99, INVALID_VALUE above (R132). -/
def execBcdenc (v : Byte) (s : State) : Host.Outcome State Fault Refusal :=
  match bcdEnc v with
  | some b => compute (.ok (.byte b)) s
  | none   => compute .invalidValue s

/-- BCDDEC (R133): OK with the decimal value, for every byte. -/
def execBcddec (b : Byte) (s : State) : Host.Outcome State Fault Refusal :=
  compute (.ok (.byte (bcdDec b))) s

end Sys2Proof.Machine
end

