-- ==== Sys2Proof/Machine/Driver.lean ====
section
/-!
DEFINITION. Unit U3 (42_driver_ops.md): INIT, READ, WRITE and CLOSE. Each meaning is the operation's edge of
R174 out of the phase the block is in.
-/

namespace Sys2Proof.Machine

/-- INIT (R160, R161, R162): T1 writes 0x00 to Control/Status 1, then T2 writes 0x00 to Control/Status 2;
the first failure ends it with BUS_ERROR. -/
def execInit (s : State) : Host.Outcome State Fault Refusal :=
  match s.phase with
  | .exec   => .next (s.issue .initW1)
  | .initW1 => await (fun _ u => u.issue .initW2) s
  | .initW2 => await (fun _ u => u.respond (.ok .nothing)) s
  | .idle   => .fault .noEdge
  | .rdWait => .fault .noEdge
  | .wrWait => .fault .noEdge
  | .resp   => .fault .noEdge

/-- READ (R164, R165, R166): T3 reads the seven time bytes; they are latched in `blk` and decoded. -/
def execRead (s : State) : Host.Outcome State Fault Refusal :=
  match s.phase with
  | .exec   => .next (s.issue .rdWait)
  | .rdWait => await (fun B u => ({ u with blk := B }).respond (decodedResponse B)) s
  | .idle   => .fault .noEdge
  | .initW1 => .fault .noEdge
  | .initW2 => .fault .noEdge
  | .wrWait => .fault .noEdge
  | .resp   => .fault .noEdge

/-- WRITE (R168, R169, R170): an invalid DateTime ends it before the bus; a valid one is encoded into `blk` and
T4 writes the seven time bytes. -/
def execWrite (t : DateTime) (s : State) : Host.Outcome State Fault Refusal :=
  match s.phase with
  | .exec   =>
    match blkEnc t with
    | some B => .next (({ s with blk := B }).issue .wrWait)
    | none   => .next (s.respond .invalidValue)
  | .wrWait => await (fun _ u => u.respond (.ok .nothing)) s
  | .idle   => .fault .noEdge
  | .initW1 => .fault .noEdge
  | .initW2 => .fault .noEdge
  | .rdWait => .fault .noEdge
  | .resp   => .fault .noEdge

/-- CLOSE (R172, R173): answers OK and does nothing else. -/
def execClose (s : State) : Host.Outcome State Fault Refusal :=
  compute (.ok .nothing) s

end Sys2Proof.Machine
end

