-- ==== Sys2Proof/Machine/RegMap.lean ====
section
/-!
DEFINITION. Unit U2 (41_regmap_codec.md): RENC and RDEC.
-/

namespace Sys2Proof.Machine

/-- RENC (R147): OK with the seven register bytes of a valid DateTime, INVALID_VALUE for any other (R150). -/
def execRenc (t : DateTime) (s : State) : Host.Outcome State Fault Refusal :=
  match blkEnc t with
  | some B => compute (.ok (.block B)) s
  | none   => compute .invalidValue s

/-- RDEC (R151): the decoded DateTime, LOW_VOLTAGE when Seconds bit 7 is set, else OK. -/
def execRdec (B : RegisterBlock) (s : State) : Host.Outcome State Fault Refusal :=
  compute (decodedResponse B) s

end Sys2Proof.Machine
end

