-- ==== Sys2Proof/Machine/Dispatch.lean ====
section
/-! DEFINITION. One arm per operation (00_scope.md R5). -/

namespace Sys2Proof.Machine

def exec (i : Instr) (s : State) : Host.Outcome State Fault Refusal :=
  match i with
  | .bcdenc v => Sys2Proof.Machine.execBcdenc v s
  | .bcddec b => Sys2Proof.Machine.execBcddec b s
  | .renc t => Sys2Proof.Machine.execRenc t s
  | .rdec B => Sys2Proof.Machine.execRdec B s
  | .init => Sys2Proof.Machine.execInit s
  | .read => Sys2Proof.Machine.execRead s
  | .write t => Sys2Proof.Machine.execWrite t s
  | .close => Sys2Proof.Machine.execClose s

end Sys2Proof.Machine
end

