-- ==== Sys2Proof/Machine/Step.lean ====
section
/-!
DEFINITION. One step of the machine: one edge of 42_driver_ops.md R174, or the transfer of a request (R100), or
a reset (R220): DEDUCED, log 1. And the host's way to place an instruction.
-/

namespace Sys2Proof.Machine

/-- One step. With `rst` asserted the block is reset (R220). Otherwise IDLE accepts a command, RESP hands the
response over, and in EXEC and the waiting phases the operation in flight takes its edge. -/
def step (s : State) : Host.Outcome State Fault Refusal :=
  if s.rst then resetEdge s
  else
    match s.phase with
    | .idle   => .next s.accept
    | .resp   => .next s.takeResponse
    | .exec   => exec s.instr s
    | .initW1 => exec s.instr s
    | .initW2 => exec s.instr s
    | .rdWait => exec s.instr s
    | .wrWait => exec s.instr s

/-- The command placed where the step takes its operation from: latched as an accepted command is (R95), with
`rst` not asserted. Log 2. -/
def State.withFetchWord (s : State) (_nbits w : Nat) : State :=
  ({ s with rst := false }).latch (BitVec.ofNat 67 w)

end Sys2Proof.Machine
end

