-- ==== Sys2Proof/Machine/Ports.lean ====
section
/-!
DEFINITION. The signal-level view (30_encoding.md R90): every output port as a function of the state, and every
input port as the environment fields of the state show it. The step reads the state, not this view; the view
adds no behaviour (00_scope.md R6, 92_eei_decisions.md D1). Bits the spec gives no meaning are free values, one
draw per response or per request (log 14).
-/

namespace Sys2Proof.Machine

/-- The output ports of R90. -/
structure Outputs where
  cmdReady    : Bool
  rspValid    : Bool
  rspStatus   : BitVec 2
  rspBuserr   : BusErr
  rspData     : Payload
  busReqValid : Bool
  busReqWrite : Bool
  busReqDev   : BitVec 8
  busReqReg   : BitVec 8
  busReqLen   : BitVec 3
  busReqWdata : BitVec 56
  busRspReady : Bool
  deriving DecidableEq, Repr

/-- A transaction is outstanding in the four waiting phases (R37). -/
def State.outstanding (s : State) : Bool := s.request.isSome

/-- `rsp_data` of a response (R96): the listed bits carry the result, every other bit is free (U9). -/
def Response.data (r : Response) (free : BitVec 64) : Payload :=
  match r with
  | .ok .nothing      => free
  | .ok (.byte b)     => free.extractLsb' 8 56 ++ b
  | .ok (.block B)    => free.extractLsb' 56 8 ++ B.toPacked
  | .ok (.dateTime t) => t.toPayload
  | .lowVoltage t     => t.toPayload
  | .busError _       => free
  | .invalidValue     => free

/-- `rsp_buserr` of a response (R96): the error, unchanged, when the status is BUS_ERROR; else free (U9). -/
def Response.buserr (r : Response) (free : BusErr) : BusErr :=
  match r with
  | .busError e   => e
  | .ok _         => free
  | .lowVoltage _ => free
  | .invalidValue => free

/-- `bus_req_write` (R90). -/
def Request.isWrite : Request → Bool
  | .read _ _  => false
  | .write _ _ => true

/-- `bus_req_reg`, the register offset (R90). -/
def Request.reg : Request → BitVec 8
  | .read reg _  => reg
  | .write reg _ => reg

/-- The length in bytes (R51, R90). -/
def Request.len : Request → Nat
  | .read _ n  => n
  | .write _ v => v.length

/-- Byte `i` of the write data in bits 8i+7:8i, over the given bits (R90). -/
def packBytes (base : BitVec 56) : Nat → List Byte → BitVec 56
  | _, [] => base
  | i, b :: bs =>
    packBytes ((base &&& ~~~((0xFF : BitVec 56) <<< (8 * i))) ||| (b.setWidth 56 <<< (8 * i))) (i + 1) bs

/-- `bus_req_wdata` (R90, R99): the write bytes; the positions beyond them, and all of a read, are free. -/
def Request.wdata (r : Request) (free : BitVec 56) : BitVec 56 :=
  match r with
  | .read _ _  => free
  | .write _ v => packBytes free 0 v

/-- The output ports in a state (R90). DESIGN CHOICE, log 26: between the transfer of a request and its answer,
where `bus_req_valid` is 0 and the spec is silent, the other request ports still hold the request; they are free
only while no transaction is outstanding. -/
def State.outputs (s : State) : Outputs where
  cmdReady    := decide (s.phase = .idle)
  rspValid    := decide (s.phase = .resp)
  rspStatus   := if s.phase = .resp then s.rsp.status else Config.freeRspStatus s.delivered.length
  rspBuserr   :=
    if s.phase = .resp then s.rsp.buserr (Config.freeRspErr s.delivered.length)
    else Config.freeRspErr s.delivered.length
  rspData     :=
    if s.phase = .resp then s.rsp.data (Config.freeRspData s.delivered.length)
    else Config.freeRspData s.delivered.length
  busReqValid := s.reqValid
  busReqWrite :=
    match s.request with
    | some r => r.isWrite
    | none   => (Config.freeBusReq s.busLog.length).getLsbD 11
  busReqDev   := Config.devAddr
  busReqReg   :=
    match s.request with
    | some r => r.reg
    | none   => (Config.freeBusReq s.busLog.length).extractLsb' 0 8
  busReqLen   :=
    match s.request with
    | some r => BitVec.ofNat 3 r.len
    | none   => (Config.freeBusReq s.busLog.length).extractLsb' 8 3
  busReqWdata :=
    match s.request with
    | some r => r.wdata (Config.freeBusData s.busLog.length)
    | none   => Config.freeBusData s.busLog.length
  busRspReady := s.outstanding

/-- The input ports of R90. A port whose value has no meaning in a state is `none`: the command while none is
offered, the answer while none is offered, the bytes of an error and the error of an Ok. -/
structure Inputs where
  rst         : Bool
  cmdValid    : Bool
  cmdOp       : Option (BitVec 3)
  cmdData     : Option Payload
  rspReady    : Bool
  busReqReady : Bool
  busRspValid : Bool
  busRspErr   : Option Bool
  busRspCode  : Option BusErr
  busRspRdata : Option (BitVec 56)
  deriving DecidableEq, Repr

/-- The answer the transport offers: one only after the request has transferred (R100, U13). -/
def State.offeredAnswer (s : State) : Option BusResult :=
  if s.outstanding && !s.reqValid then s.answer else none

/-- The read bytes on the port, packed as R90 packs them; meaningless on a write (R99). -/
def State.readData (s : State) : Option (BitVec 56) :=
  match s.request, s.offeredAnswer with
  | some (.read _ _), some (.ok B) => some B.toPacked
  | _, _ => none

/-- The input ports in a state (R90). -/
def State.inputs (s : State) : Inputs where
  rst         := s.rst
  cmdValid    := !s.cmds.isEmpty
  cmdOp       := s.cmds.head?.map commandCode
  cmdData     := s.cmds.head?.map commandData
  rspReady    := s.rspReady
  busReqReady := s.busReqReady
  busRspValid := s.offeredAnswer.isSome
  busRspErr   := s.offeredAnswer.map fun
    | .ok _  => false
    | .err _ => true
  busRspCode  :=
    match s.offeredAnswer with
    | some (.err e) => some e
    | some (.ok _)  => none
    | none          => none
  busRspRdata := s.readData

end Sys2Proof.Machine
end

