-- ==== Sys2Proof/Safety.lean ====
section
/-!
DEFINITION. What statements about runs rest on: the outcomes, the invariants of a consistent state, and what the
spec allows in the records. No value chosen by the model enters here but what the log names.
-/

namespace Sys2Proof.Machine

/-- The two transactions of INIT (R59: T1, T2). -/
def t1 : Request := .write 0x00 [0x00]
def t2 : Request := .write 0x01 [0x00]

/-- The transaction of READ (R59: T3). -/
def t3 : Request := .read 0x02 7

/-- The transaction of WRITE for a RegisterBlock (R59: T4). -/
def t4 (B : RegisterBlock) : Request := .write 0x02 B.toList

/-- The transactions the block can ever issue (R59): T1, T2, T3, and T4 with the encoding of a DateTime that
`valid_dt` accepts. -/
def LegalRequest (r : Request) : Prop :=
  r = t1 ∨ r = t2 ∨ r = t3 ∨ ∃ t B, blkEnc t = some B ∧ r = t4 B

/-- A byte whose nibbles are both at most 9: a canonical BCD byte (R105). -/
def canonicalBcd (b : Byte) : Bool := (b.extractLsb' 4 4 ≤ 9) && (b.extractLsb' 0 4 ≤ 9)

/-- The packed BCD byte of 0 to 99 as a number (R105): sixteen times the tens digit plus the ones digit. -/
def packedBcd (v : Byte) : Byte := BitVec.ofNat 8 (16 * (v.toNat / 10) + v.toNat % 10)

/-- The number a byte stands for (R134): high nibble times ten plus low nibble, as a natural number. -/
def bcdValue (b : Byte) : Nat := 10 * (b.toNat / 16) + b.toNat % 16

/-- The ranges of R146, field by field. -/
def InRange (t : DateTime) : Prop :=
  t.sec.toNat ≤ 59 ∧ t.min.toNat ≤ 59 ∧ t.hour.toNat ≤ 23 ∧ (1 ≤ t.day.toNat ∧ t.day.toNat ≤ 31) ∧
    t.wday.toNat ≤ 6 ∧ (1 ≤ t.month.toNat ∧ t.month.toNat ≤ 12) ∧
    (1900 ≤ t.year.toNat ∧ t.year.toNat ≤ 2099)

/-- The seven register bytes of a DateTime (R148), each digit pair by `packedBcd`, the century bit in Month
bit 7 (R145). -/
def registerImage (t : DateTime) : RegisterBlock where
  b0 := packedBcd t.sec
  b1 := packedBcd t.min
  b2 := packedBcd t.hour
  b3 := packedBcd t.day
  b4 := packedBcd t.wday
  b5 := packedBcd t.month ||| (if 2000 ≤ t.year.toNat then 0x80 else 0x00)
  b6 := packedBcd (BitVec.ofNat 8 (t.year.toNat % 100))

/-- The fields a RegisterBlock decodes to (R140, R141, R144, R152), as natural numbers. -/
def DecodesTo (B : RegisterBlock) (t : DateTime) : Prop :=
  t.sec.toNat = bcdValue (B.b0 &&& 0x7F) ∧ t.min.toNat = bcdValue (B.b1 &&& 0x7F) ∧
    t.hour.toNat = bcdValue (B.b2 &&& 0x3F) ∧ t.day.toNat = bcdValue (B.b3 &&& 0x3F) ∧
    t.wday.toNat = bcdValue (B.b4 &&& 0x07) ∧ t.month.toNat = bcdValue (B.b5 &&& 0x1F) ∧
    t.year.toNat = bcdValue B.b6 + (if B.b5 &&& 0x80 = 0 then 1900 else 2000)

/-- A block the encoder can produce (R154): canonical under its masks, the low-voltage position and every
reserved bit 0, and fields inside the ranges of R146. -/
def CanonicalBlock (B : RegisterBlock) : Prop :=
  (B.b0 &&& 0x7F = B.b0 ∧ B.b1 &&& 0x7F = B.b1 ∧ B.b2 &&& 0x3F = B.b2 ∧ B.b3 &&& 0x3F = B.b3 ∧
    B.b4 &&& 0x07 = B.b4 ∧ B.b5 &&& 0x9F = B.b5) ∧
  (canonicalBcd B.b0 = true ∧ canonicalBcd B.b1 = true ∧ canonicalBcd B.b2 = true ∧
    canonicalBcd B.b3 = true ∧ canonicalBcd B.b4 = true ∧ canonicalBcd (B.b5 &&& 0x1F) = true ∧
    canonicalBcd B.b6 = true) ∧
  InRange (blkFields B)

/-- An answer given in advance that is Ok. -/
def Answer.isOk : Answer → Bool
  | .stored  => true
  | .bytes _ => true
  | .err _   => false
  | .never   => false

/-- Which responses an operation can produce (R194), with the kind of payload R96 lists for it. -/
def CanReport (i : Instr) (r : Response) : Prop :=
  match i with
  | .bcdenc v => (v ≤ 99 ∧ ∃ b, r = .ok (.byte b)) ∨ (¬ v ≤ 99 ∧ r = .invalidValue)
  | .bcddec _ => ∃ b, r = .ok (.byte b)
  | .renc t   => (validDt t = true ∧ ∃ B, r = .ok (.block B)) ∨ (validDt t = false ∧ r = .invalidValue)
  | .rdec B   =>
    (B.b0.getLsbD 7 = false ∧ ∃ t, r = .ok (.dateTime t)) ∨ (B.b0.getLsbD 7 = true ∧ ∃ t, r = .lowVoltage t)
  | .init     => r = .ok .nothing ∨ ∃ e, r = .busError e
  | .read     => (∃ t, r = .ok (.dateTime t)) ∨ (∃ t, r = .lowVoltage t) ∨ ∃ e, r = .busError e
  | .write t  =>
    (validDt t = true ∧ (r = .ok .nothing ∨ ∃ e, r = .busError e)) ∨ (validDt t = false ∧ r = .invalidValue)
  | .close    => r = .ok .nothing

/-- The phases an operation passes through (R23, R174), and what the latches hold there: INIT's two waits,
READ's wait, WRITE's wait with the encoded DateTime in `blk`, and a response its operation can report. A request
that has not transferred belongs to an outstanding transaction (R100). -/
structure State.Consistent (s : State) : Prop where
  request_pending : s.reqValid = true → s.outstanding = true
  init_first      : s.phase = .initW1 → s.instr = .init
  init_second     : s.phase = .initW2 → s.instr = .init
  read_wait       : s.phase = .rdWait → s.instr = .read
  write_wait      : s.phase = .wrWait → ∃ t, s.instr = .write t ∧ blkEnc t = some s.blk
  response        : s.phase = .resp → CanReport s.instr s.rsp

/-- The transactions an operation can issue (R52, R59). -/
def MayIssue (i : Instr) (r : Request) : Prop :=
  match i with
  | .bcdenc _ => False
  | .bcddec _ => False
  | .renc _   => False
  | .rdec _   => False
  | .init     => r = t1 ∨ r = t2
  | .read     => r = t3
  | .write t  => ∃ B, blkEnc t = some B ∧ r = t4 B
  | .close    => False

/-- The pairs of phases R174 lists an edge between, with the operation it lists the edge for. -/
def Edge (i : Instr) (p q : Phase) : Prop :=
  match p, q with
  | .idle, .exec     => True
  | .exec, .resp     => i ≠ .init ∧ i ≠ .read ∧ ∀ t, i = .write t → validDt t = false
  | .exec, .wrWait   => ∃ t, i = .write t ∧ validDt t = true
  | .exec, .rdWait   => i = .read
  | .exec, .initW1   => i = .init
  | .initW1, .resp   => i = .init
  | .initW1, .initW2 => i = .init
  | .initW2, .resp   => i = .init
  | .rdWait, .resp   => i = .read
  | .wrWait, .resp   => ∃ t, i = .write t
  | .resp, .idle     => True
  | _, _             => False

/-- Every transaction issued is one of R59's. -/
def State.LegalLog (s : State) : Prop := ∀ r ∈ s.busLog, LegalRequest r

/-- The commands that still stand, the one in flight and the responses delivered, counted together (R95). -/
def State.commandCount (s : State) : Nat :=
  s.cmds.length + (if s.busy then 1 else 0) + s.delivered.length

/-- An environment that does its part with no delay: not resetting, taking responses, accepting requests. -/
def State.Willing (s : State) : Prop := s.rst = false ∧ s.rspReady = true ∧ s.busReqReady = true

end Sys2Proof.Machine
end

