-- ==== Sys2Proof/Certificates/Slice0/Obligations.lean ====
section
/-!
DEFINITION. The statements for the provers. Each docstring names the rules of spec/ the statement formalises.
A hypothesis `s.phase = .exec` says that the operation is at its EXEC step (R23); `s.reqValid = false` that the
outstanding request has transferred (R100).
-/

open Sys2Proof Sys2Proof.Machine

/-! ### Encoding of commands (30_encoding.md) -/

/-- R91, R92, R93, R102, R104: every operation is well-formed and decodes from its own encoding. -/
def Obligations.DecodeAfterEncode : Prop :=
  ∀ i : Instr, i.wellFormed = true ∧ decode (encode i) = i

/-- R94: payload bits an operation does not use are ignored. -/
def Obligations.IgnoredBitsSelectSameOperation : Prop :=
  ∀ p q : Payload,
    (p.extractLsb' 0 8 = q.extractLsb' 0 8 →
      decode ((0 : BitVec 3) ++ p) = decode ((0 : BitVec 3) ++ q) ∧
      decode ((1 : BitVec 3) ++ p) = decode ((1 : BitVec 3) ++ q)) ∧
    (p.extractLsb' 0 56 = q.extractLsb' 0 56 →
      decode ((3 : BitVec 3) ++ p) = decode ((3 : BitVec 3) ++ q)) ∧
    decode ((4 : BitVec 3) ++ p) = .init ∧ decode ((5 : BitVec 3) ++ p) = .read ∧
    decode ((7 : BitVec 3) ++ p) = .close

/-- R91, R110: every command is an operation, and its code is the one R91 gives that operation. -/
def Obligations.EveryCodeIsOneOperation : Prop :=
  (∀ c : Command, (decode c).code = c.extractLsb' 64 3) ∧
  (∀ v b t B, (Instr.bcdenc v).code = 0 ∧ (Instr.bcddec b).code = 1 ∧ (Instr.renc t).code = 2 ∧
    (Instr.rdec B).code = 3 ∧ Instr.init.code = 4 ∧ Instr.read.code = 5 ∧ (Instr.write t).code = 6 ∧
    Instr.close.code = 7)

/-- R93, R102, R104: where each operand lies in the payload. -/
def Obligations.PayloadLayout : Prop :=
  ∀ p : Payload,
    decode ((0 : BitVec 3) ++ p) = .bcdenc (p.extractLsb' 0 8) ∧
    decode ((1 : BitVec 3) ++ p) = .bcddec (p.extractLsb' 0 8) ∧
    (∃ t : DateTime, decode ((2 : BitVec 3) ++ p) = .renc t ∧ decode ((6 : BitVec 3) ++ p) = .write t ∧
      t.sec = p.extractLsb' 0 8 ∧ t.min = p.extractLsb' 8 8 ∧ t.hour = p.extractLsb' 16 8 ∧
      t.day = p.extractLsb' 24 8 ∧ t.wday = p.extractLsb' 32 8 ∧ t.month = p.extractLsb' 40 8 ∧
      t.year = p.extractLsb' 48 16) ∧
    (∃ B : RegisterBlock, decode ((3 : BitVec 3) ++ p) = .rdec B ∧
      B.b0 = p.extractLsb' 0 8 ∧ B.b1 = p.extractLsb' 8 8 ∧ B.b2 = p.extractLsb' 16 8 ∧
      B.b3 = p.extractLsb' 24 8 ∧ B.b4 = p.extractLsb' 32 8 ∧ B.b5 = p.extractLsb' 40 8 ∧
      B.b6 = p.extractLsb' 48 8) ∧
    decode ((4 : BitVec 3) ++ p) = .init ∧ decode ((5 : BitVec 3) ++ p) = .read ∧
    decode ((7 : BitVec 3) ++ p) = .close

/-- R91, R92, 95_test_vectors.md part 2: command words written out in the spec. -/
def Obligations.VectorCommandsDecode : Prop :=
  decode 0x0DEADBEEF0000002A = .bcdenc 42 ∧
  decode 0x10000000000000059 = .bcddec 0x59 ∧
  decode 0x207D20B031B170F23 = .renc ⟨35, 15, 23, 27, 3, 11, 2002⟩ ∧
  decode 0x3EE02910327231535 = .rdec ⟨0x35, 0x15, 0x23, 0x27, 0x03, 0x91, 0x02⟩ ∧
  decode 0x40000000000000000 = .init ∧
  decode 0x50000000000000000 = .read ∧
  decode 0x607D60C0018170F14 = .write ⟨20, 15, 23, 24, 0, 12, 2006⟩ ∧
  decode 0x7FFFFFFFFFFFFFFFF = .close

/-- R112: the line that writes an operation assembles to it, and a line that assembles is the one that writes the
result. Which lines assemble, by their numerals, and that a line that is not well-formed assembles to none, is the
model's own (log 18): R112 says neither. -/
def Obligations.LineAssemblesToItsOperation : Prop :=
  (∀ i : Instr, i.toLine.assemble = some i) ∧
  (∀ (l : Line) (i : Instr), l.assemble = some i → i.toLine = l) ∧
  (∀ l : Line, (∃ i, l.assemble = some i) ↔
    match l with
    | .bcdenc v => v < 256
    | .bcddec b => b < 256
    | .renc t   => t.sec < 256 ∧ t.min < 256 ∧ t.hour < 256 ∧ t.day < 256 ∧ t.wday < 256 ∧ t.month < 256 ∧
        t.year < 65536
    | .rdec bs  => bs.length = 7 ∧ ∀ b ∈ bs, b < 256
    | .init     => True
    | .read     => True
    | .write t  => t.sec < 256 ∧ t.min < 256 ∧ t.hour < 256 ∧ t.day < 256 ∧ t.wday < 256 ∧ t.month < 256 ∧
        t.year < 65536
    | .close    => True) ∧
  ∀ l : Line, l.wellFormed = false → l.assemble = none

/-! ### The sequencer (10_state.md, 42_driver_ops.md section 5) -/

/-- R22, R91, R174: while an operation runs, the step is the meaning of the decoded command; from IDLE it is the
acceptance of an offered command, from RESP the handing over of the response. -/
def Obligations.StepRunsDecodedOperation : Prop :=
  ∀ s : State, s.rst = false →
    (s.phase ≠ .idle → s.phase ≠ .resp → step s = exec (decode (s.op ++ s.arg)) s) ∧
    (s.phase = .idle → step s = .next s.accept) ∧
    (s.phase = .resp → step s = .next s.takeResponse)

/-- R95: acceptance latches the command; every accepted command is in flight until its one response is
delivered, and responses are only ever appended. The count and the record of responses are the model's (log 16). -/
def Obligations.OneResponsePerCommand : Prop :=
  (∀ (s : State) (c : Command) (cs : List Command), s.rst = false → s.phase = .idle → s.cmds = c :: cs →
    step s = .next { s with
      cmds := cs, op := c.extractLsb' 64 3, arg := c.extractLsb' 0 64, phase := .exec }) ∧
  (∀ s t : State, step s = .next t → t.commandCount = s.commandCount ∧ s.delivered <+: t.delivered)

/-- R26: a busy block accepts no command; an offered one waits and is not lost. -/
def Obligations.BusyBlockKeepsCommandsWaiting : Prop :=
  ∀ s : State, s.phase ≠ .idle →
    s.outputs.cmdReady = false ∧ ∀ t, step s = .next t → t.cmds = s.cmds

/-- R23, R174: `phase` only moves along the listed edges, whatever the state. -/
def Obligations.PhaseMovesAlongListedEdges : Prop :=
  ∀ s t : State, step s = .next t → t.phase = s.phase ∨ Edge s.instr s.phase t.phase

/-- R11, R195: from a consistent state a step always answers a next state, unless the host resets a busy
block. That a wait without an end is a next state too, the same state again, where U11 calls it stuck, is the
model's (log 11). -/
def Obligations.ConsistentStateTakesAStep : Prop :=
  ∀ s : State, s.Consistent → (s.rst = false ∨ s.phase = .idle) → ∃ t, step s = .next t

/-- R23, R24, R37, R194: every step keeps a state consistent. -/
def Obligations.StepKeepsConsistent : Prop :=
  ∀ s t : State, s.Consistent → step s = .next t → t.Consistent

/-- R59, R52: a step issues no transaction or one, one that R59 lists for the operation in flight; so the
transactions issued stay those of R59; and the device is always `DEV_ADDR`. -/
def Obligations.OnlyListedTransactions : Prop :=
  (∀ s t : State, step s = .next t →
    t.busLog = s.busLog ∨ ∃ r, t.busLog = s.busLog ++ [r] ∧ MayIssue s.instr r) ∧
  (∀ s t : State, s.LegalLog → step s = .next t → t.LegalLog) ∧
  ∀ s : State, s.outputs.busReqDev = Config.devAddr

/-- R176 (which the spec marks as derived): the transactions of one operation, from EXEC to its response: none for the operations without a bus
side and for a WRITE of an invalid DateTime, one for READ and for any other WRITE, two for INIT when T1 succeeds
and one when T1 fails. `s.answer` is the bus's answer to the next transaction. -/
def Obligations.TransactionsPerOperation : Prop :=
  ∀ (n : Nat) (s t : State), s.phase = .exec → Host.Core.run Sys2Proof.core n s = .next t → t.phase = .resp →
    t.delivered = s.delivered →
      ∃ l, t.busLog = s.busLog ++ l ∧
        match s.instr with
        | .bcdenc _ => l = []
        | .bcddec _ => l = []
        | .renc _   => l = []
        | .rdec _   => l = []
        | .init     =>
          (l = [t1, t2] ∧ ∃ B, s.answer = some (.ok B)) ∨ (l = [t1] ∧ ∃ e, s.answer = some (.err e))
        | .read     => l = [t3]
        | .write d  => (InRange d ∧ ∃ B, blkEnc d = some B ∧ l = [t4 B]) ∨ (¬ InRange d ∧ l = [])
        | .close    => l = []

/-- R37, R100, R175: a transaction is issued only on entering its waiting phase, with its request then offered;
one at a time, never twice. -/
def Obligations.IssueOnlyOnEnteringAWait : Prop :=
  ∀ s t : State, step s = .next t →
    (t.busLog = s.busLog ∧ (t.reqValid = true → s.reqValid = true)) ∨
    (∃ r, t.busLog = s.busLog ++ [r] ∧ t.request = some r ∧ t.reqValid = true ∧ t.phase ≠ s.phase ∧
      (s.outstanding = true → s.reqValid = false ∧ ∃ B, s.answer = some (.ok B)))

/-- R50, R51: every step keeps the chip's memory in its canonical form. -/
def Obligations.StepKeepsMemoryCanonical : Prop :=
  ∀ s t : State, s.chip.wf = true → step s = .next t → t.chip.wf = true

/-- R194 (which the spec marks as derived): what a response can report, operation by operation; in a READ, by
Seconds bit 7 of the bytes read. -/
def Obligations.ResponsesFollowTheTable : Prop :=
  ∀ s t : State, s.Consistent → step s = .next t → s.phase ≠ .resp → t.phase = .resp →
    CanReport s.instr t.rsp ∧
    (∀ d, s.instr = .read → t.rsp = .lowVoltage d → t.blk.b0.getLsbD 7 = true) ∧
    (∀ d, s.instr = .read → t.rsp = .ok (.dateTime d) → t.blk.b0.getLsbD 7 = false)

/-! ### Reset (10_state.md section 5, 70_reset_and_hazards.md section 1) -/

/-- R38, R39, R40: what reset leaves. -/
def Obligations.ResetIsIdleAndEmpty : Prop :=
  State.reset.phase = .idle ∧ State.reset.request = none ∧ State.reset.reqValid = false ∧
  State.reset.outputs.rspValid = false ∧ State.reset.busLog = [] ∧ State.reset.chip = []

/-- The invariants hold at reset. -/
def Obligations.ResetMeetsInvariants : Prop :=
  State.reset.Consistent ∧ State.reset.LegalLog ∧ State.reset.chip.wf = true

/-- R220, R221: reset of an idle block leaves it idle with nothing outstanding or pending, sends nothing and
leaves the chip alone; and without `rst` only the taking of a response makes the block
idle. -/
def Obligations.ResetTouchesOnlyTheBlock : Prop :=
  (∀ s : State, s.rst = true → s.phase = .idle →
    ∃ t, step s = .next t ∧ t.phase = .idle ∧ t.request = none ∧ t.reqValid = false ∧
      t.outputs.rspValid = false ∧ t.chip = s.chip ∧ t.busLog = s.busLog ∧ t.answers = s.answers ∧
      t.draw = s.draw) ∧
  (∀ s t : State, s.rst = false → s.phase ≠ .resp → step s = .next t → t.phase = .idle → s.phase = .idle)

/-- R38, R41, U12: a reset of an idle block, as the whole next state: the dead latches at their reset values (the
model's choice, log 3) and a command offered left offered (the model's choice, log 22). A reset while busy has no
meaning; that the step refuses it is the model's choice (log 12). -/
def Obligations.ResetStepIdleOrRefused : Prop :=
  ∀ s : State, s.rst = true →
    (s.phase = .idle → step s = .next { s with
      phase := .idle, op := 0, arg := 0, blk := ⟨0, 0, 0, 0, 0, 0, 0⟩, rsp := .ok .nothing, reqValid := false }) ∧
    (s.phase ≠ .idle → step s = .refused .resetWhileBusy)

/-- R222 (which the spec marks as derived): after reset the block waits, the model's reset offering no command
(log 2); the first command may be any and is the operation in flight next. -/
def Obligations.FirstCommandAfterReset : Prop :=
  step State.reset = .next State.reset ∧
  ∀ (c : Command) (cs : List Command),
    ∃ t, step { State.reset with cmds := c :: cs } = .next t ∧ t.phase = .exec ∧ t.instr = decode c ∧
      step t = exec (decode c) t

/-! ### Unit U1 (40_bcd_codec.md) -/

/-- R131: the digits of `bcd_enc`, its formula and its range. -/
def Obligations.BcdEncPacksDigits : Prop :=
  ∀ v : Byte, v ≤ 99 → ∃ b, bcdEnc v = some b ∧
    b.extractLsb' 4 4 = (v / 10).setWidth 4 ∧ b.extractLsb' 0 4 = (v % 10).setWidth 4 ∧
    b = ((v / 10) <<< 4) ||| (v % 10) ∧ canonicalBcd b = true ∧ b ≤ 0x99

/-- R134: the formula of `bcd_dec` and its range, and the arithmetic forms of both functions that R131 and R134
mark as derived. R134's "0 to 99 exactly when `b` is canonical" is no part of it: R135 says otherwise (log 25). -/
def Obligations.BcdDecFormula : Prop :=
  (∀ b : Byte, (bcdDec b).toNat = 10 * (b.toNat / 16) + b.toNat % 16 ∧ bcdDec b ≤ 165 ∧
    bcdDec b = b - 6 * (b >>> 4)) ∧
  ∀ v : Byte, v ≤ 99 → bcdEnc v = some (v + 6 * (v / 10))

/-- R135: the round trip of U1; its converse, which R135 marks as derived, on the canonical bytes and on no other;
and the values decoded. -/
def Obligations.BcdRoundTrip : Prop :=
  (∀ v b : Byte, bcdEnc v = some b → bcdDec b = v) ∧
  (∀ v : Byte, v ≤ 99 → ∃ b, bcdEnc v = some b) ∧
  (∀ b : Byte, canonicalBcd b = true → bcdEnc (bcdDec b) = some b) ∧
  (∀ b : Byte, canonicalBcd b = false →
    (¬ bcdDec b ≤ 99 ∧ bcdEnc (bcdDec b) = none) ∨
    (bcdDec b ≤ 99 ∧ ∃ b', bcdEnc (bcdDec b) = some b' ∧ b' ≠ b ∧ canonicalBcd b' = true)) ∧
  bcdDec 0x0A = 10 ∧ bcdDec 0x10 = 10 ∧ bcdEnc 10 = some 0x10 ∧
  (∀ b : Byte, bcdDec b ≤ 165) ∧ (∀ n : Byte, n ≤ 165 → ∃ b, bcdDec b = n)

/-- R136 (which the spec marks as derived): the image of `bcd_enc` is the canonical bytes, and every byte a WRITE sends is canonical under its
field mask. -/
def Obligations.EncoderImageIsCanonical : Prop :=
  (∀ b : Byte, (∃ v, bcdEnc v = some b) ↔ canonicalBcd b = true) ∧
  ∀ (t : DateTime) (B : RegisterBlock), blkEnc t = some B →
    canonicalBcd (B.b0 &&& 0x7F) = true ∧ canonicalBcd (B.b1 &&& 0x7F) = true ∧
    canonicalBcd (B.b2 &&& 0x3F) = true ∧ canonicalBcd (B.b3 &&& 0x3F) = true ∧
    canonicalBcd (B.b4 &&& 0x07) = true ∧ canonicalBcd (B.b5 &&& 0x1F) = true ∧
    canonicalBcd (B.b6 &&& 0xFF) = true

/-- R130, R132: BCDENC completes with the packed byte for 0 to 99 and with INVALID_VALUE above, where `bcd_enc`
has no value; nothing else of the state changes. -/
def Obligations.BcdencCompletes : Prop :=
  (∀ (v : Byte) (s : State), s.phase = .exec → v.toNat ≤ 99 →
    exec (.bcdenc v) s = .next { s with rsp := .ok (.byte (packedBcd v)), phase := .resp }) ∧
  (∀ (v : Byte) (s : State), s.phase = .exec → 99 < v.toNat →
    bcdEnc v = none ∧ exec (.bcdenc v) s = .next { s with rsp := .invalidValue, phase := .resp }) ∧
  ∀ p : Payload, decode ((0 : BitVec 3) ++ p) = .bcdenc (p.extractLsb' 0 8)

/-- R133, R134: BCDDEC completes with OK for every byte; nothing else of the state changes. Bits 63:8 of
`rsp_data` are as R96 has them, not as the `zext_64` of R133 (log 14), and no part of this. -/
def Obligations.BcddecCompletes : Prop :=
  ∀ (b : Byte) (s : State), s.phase = .exec →
    exec (.bcddec b) s = .next { s with
      rsp := .ok (.byte (BitVec.ofNat 8 (10 * (b.toNat / 16) + b.toNat % 16))), phase := .resp }

/-! ### Unit U2 (41_regmap_codec.md) -/

/-- R146: `valid_dt` is the field ranges and nothing more. -/
def Obligations.ValidDtIsTheFieldRanges : Prop :=
  ∀ t : DateTime, validDt t = true ↔ InRange t

/-- R147, R148, R150: RENC completes with the register image of a valid DateTime and with INVALID_VALUE for any
other; nothing else of the state changes. -/
def Obligations.RencCompletes : Prop :=
  (∀ (t : DateTime) (s : State), s.phase = .exec → InRange t →
    exec (.renc t) s = .next { s with rsp := .ok (.block (registerImage t)), phase := .resp }) ∧
  (∀ (t : DateTime) (s : State), s.phase = .exec → ¬ InRange t →
    blkEnc t = none ∧ exec (.renc t) s = .next { s with rsp := .invalidValue, phase := .resp }) ∧
  ∀ p : Payload, decode ((2 : BitVec 3) ++ p) = .renc (DateTime.ofPayload p)

/-- R151, R152, R153: RDEC completes for any seven bytes, with LOW_VOLTAGE exactly when Seconds bit 7 is set,
and with the same decoded DateTime either way; nothing else of the state changes. -/
def Obligations.RdecCompletes : Prop :=
  (∀ (B : RegisterBlock) (s : State), s.phase = .exec →
    ∃ t, DecodesTo B t ∧
      (B.b0 &&& 0x80 = 0 →
        exec (.rdec B) s = .next { s with rsp := .ok (.dateTime t), phase := .resp }) ∧
      (B.b0 &&& 0x80 ≠ 0 →
        exec (.rdec B) s = .next { s with rsp := .lowVoltage t, phase := .resp })) ∧
  ∀ p : Payload, decode ((3 : BitVec 3) ++ p) = .rdec (RegisterBlock.ofPacked (p.extractLsb' 0 56))

/-- R154 (which the spec marks as derived): encode then decode returns the DateTime with the low-voltage bit 0;
decode then encode returns the block exactly for the canonical blocks; decoding is many-to-one and encoding
partial. -/
def Obligations.EncodeThenDecodeDateTime : Prop :=
  (∀ t : DateTime, validDt t = true → ∃ B, blkEnc t = some B ∧ blkDec B = (t, false)) ∧
  (∀ B : RegisterBlock, blkEnc (blkDec B).1 = some B ↔ CanonicalBlock B) ∧
  (∃ B B' : RegisterBlock, B ≠ B' ∧ blkDec B = blkDec B') ∧ ∃ t : DateTime, blkEnc t = none

/-- R149: bits the encoder does not own are written as 0. -/
def Obligations.EncoderWritesOnlyOwnedBits : Prop :=
  ∀ (t : DateTime) (B : RegisterBlock), blkEnc t = some B →
    B.b0 &&& 0x7F = B.b0 ∧ B.b1 &&& 0x7F = B.b1 ∧ B.b2 &&& 0x3F = B.b2 ∧ B.b3 &&& 0x3F = B.b3 ∧
    B.b4 &&& 0x07 = B.b4 ∧ B.b5 &&& 0x9F = B.b5 ∧ B.b6 &&& 0xFF = B.b6 ∧ B.b0.getLsbD 7 = false

/-- R144, R145: the century policy. Decode adds 1900 or 2000 to the two-digit year by Month bit 7, within 16
bits; encode sets Month bit 7 exactly for 2000 on and stores year mod 100; the two together determine the
year. -/
def Obligations.CenturyPolicy : Prop :=
  (∀ B : RegisterBlock,
    (blkDec B).1.year.toNat = bcdValue B.b6 + (if B.b5.getLsbD 7 then 2000 else 1900)) ∧
  (∀ (t : DateTime) (B : RegisterBlock), blkEnc t = some B →
    (B.b5.getLsbD 7 = true ↔ 2000 ≤ t.year.toNat) ∧ B.b6 = packedBcd (BitVec.ofNat 8 (t.year.toNat % 100))) ∧
  ∀ (t t' : DateTime) (B B' : RegisterBlock), blkEnc t = some B → blkEnc t' = some B' →
    B.b5.getLsbD 7 = B'.b5.getLsbD 7 → B.b6 = B'.b6 → t.year = t'.year

/-- R141, R142, R143, R108: bits outside a field's mask never influence the field, and nothing but Seconds bit 7
influences the low-voltage bit. -/
def Obligations.MaskedBitsNeverReachFields : Prop :=
  ∀ B B' : RegisterBlock,
    (B.b0 &&& 0x7F = B'.b0 &&& 0x7F → B.b1 &&& 0x7F = B'.b1 &&& 0x7F → B.b2 &&& 0x3F = B'.b2 &&& 0x3F →
      B.b3 &&& 0x3F = B'.b3 &&& 0x3F → B.b4 &&& 0x07 = B'.b4 &&& 0x07 → B.b5 &&& 0x9F = B'.b5 &&& 0x9F →
      B.b6 = B'.b6 → (blkDec B).1 = (blkDec B').1) ∧
    (B.b0 &&& 0x80 = B'.b0 &&& 0x80 → (blkDec B).2 = (blkDec B').2)

/-! ### Unit U3 (42_driver_ops.md) -/

/-- R160: the edges of INIT. EXEC issues T1; T1 answered Ok clears Control/Status 1 and issues T2;
T2 answered Ok clears Control/Status 2 and INIT completes with OK; an Err ends it with that error and stores
nothing. -/
def Obligations.InitCompletes : Prop :=
  ∀ s : State,
    (s.phase = .exec →
      exec .init s = .next { s with phase := .initW1, reqValid := true, busLog := s.busLog ++ [t1] }) ∧
    (∀ B, s.phase = .initW1 → s.reqValid = false → s.answer = some (.ok B) →
      exec .init s = .next { s.consume with
        chip := s.chip.write 0x00 0x00, phase := .initW2, reqValid := true, busLog := s.busLog ++ [t2] }) ∧
    (∀ B, s.phase = .initW2 → s.reqValid = false → s.answer = some (.ok B) →
      exec .init s = .next { s.consume with
        chip := s.chip.write 0x01 0x00, rsp := .ok .nothing, phase := .resp }) ∧
    (∀ e, (s.phase = .initW1 ∨ s.phase = .initW2) → s.reqValid = false → s.answer = some (.err e) →
      exec .init s = .next { s.consume with rsp := .busError e, phase := .resp }) ∧
    ∀ p : Payload, decode ((4 : BitVec 3) ++ p) = .init

/-- R160, R161, R162 (R162 is marked as derived): a whole INIT, from EXEC to RESP; the number of steps is the
model's (log 1). Both writes Ok: OK, both registers 0x00, T1 then T2. T1
fails: that error, T2 never issued, nothing changed. T2 fails: that error, Control/Status 1 cleared, the rest
unchanged. -/
def Obligations.InitRunsBothWrites : Prop :=
  ∀ s : State, s.Willing → s.phase = .exec → s.reqValid = false → s.instr = .init →
    (∀ a a' rest, s.answers = a :: a' :: rest → a.isOk = true → a'.isOk = true →
      ∃ t, Host.Core.run Sys2Proof.core 5 s = .next t ∧ t.phase = .resp ∧ t.rsp = .ok .nothing ∧
        t.busLog = s.busLog ++ [t1, t2] ∧ t.answers = rest ∧
        ∀ x, t.chip.read x = if x = 0 ∨ x = 1 then some 0x00 else s.chip.read x) ∧
    (∀ e rest, s.answers = .err e :: rest →
      ∃ t, Host.Core.run Sys2Proof.core 3 s = .next t ∧ t.phase = .resp ∧ t.rsp = .busError e ∧
        t.busLog = s.busLog ++ [t1] ∧ t.answers = rest ∧ t.chip = s.chip) ∧
    (∀ a e rest, s.answers = a :: .err e :: rest → a.isOk = true →
      ∃ t, Host.Core.run Sys2Proof.core 5 s = .next t ∧ t.phase = .resp ∧ t.rsp = .busError e ∧
        t.busLog = s.busLog ++ [t1, t2] ∧ t.answers = rest ∧
        ∀ x, t.chip.read x = if x = 0 then some 0x00 else s.chip.read x)

/-- R164, R165: the edges of READ. EXEC issues T3; the seven bytes answered are latched and decoded, and
READ completes with OK or, when Seconds bit 7 is set, with LOW_VOLTAGE carrying the same fields; an Err ends it
with that error. The chip is never written. -/
def Obligations.ReadCompletes : Prop :=
  ∀ s : State,
    (s.phase = .exec →
      exec .read s = .next { s with phase := .rdWait, reqValid := true, busLog := s.busLog ++ [t3] }) ∧
    (∀ B, s.phase = .rdWait → s.reqValid = false → s.answer = some (.ok B) →
      ∃ t, DecodesTo B t ∧
        (B.b0 &&& 0x80 = 0 →
          exec .read s = .next { s.consume with blk := B, rsp := .ok (.dateTime t), phase := .resp }) ∧
        (B.b0 &&& 0x80 ≠ 0 →
          exec .read s = .next { s.consume with blk := B, rsp := .lowVoltage t, phase := .resp })) ∧
    (∀ e, s.phase = .rdWait → s.reqValid = false → s.answer = some (.err e) →
      exec .read s = .next { s.consume with rsp := .busError e, phase := .resp }) ∧
    ∀ p : Payload, decode ((5 : BitVec 3) ++ p) = .read

/-- R168, R169, R170: the edges of WRITE. An invalid DateTime ends it in EXEC with INVALID_VALUE, whatever the
bus would answer, and no transaction; a valid one is encoded and T4 issued; T4 answered Ok stores the seven bytes
and WRITE completes with OK; an Err ends it with that error and stores nothing. -/
def Obligations.WriteCompletes : Prop :=
  ∀ (s : State) (t : DateTime),
    (s.phase = .exec → ¬ InRange t →
      exec (.write t) s = .next { s with rsp := .invalidValue, phase := .resp }) ∧
    (s.phase = .exec → InRange t →
      exec (.write t) s = .next { s with
        blk := registerImage t, phase := .wrWait, reqValid := true,
        busLog := s.busLog ++ [t4 (registerImage t)] }) ∧
    (∀ B, s.phase = .wrWait → s.reqValid = false → s.answer = some (.ok B) →
      ∃ m, exec (.write t) s = .next { s.consume with chip := m, rsp := .ok .nothing, phase := .resp } ∧
        m.read 0x02 = some s.blk.b0 ∧ m.read 0x03 = some s.blk.b1 ∧ m.read 0x04 = some s.blk.b2 ∧
        m.read 0x05 = some s.blk.b3 ∧ m.read 0x06 = some s.blk.b4 ∧ m.read 0x07 = some s.blk.b5 ∧
        m.read 0x08 = some s.blk.b6 ∧ ∀ x, (x < 0x02 ∨ 0x08 < x) → m.read x = s.chip.read x) ∧
    (∀ e, s.phase = .wrWait → s.reqValid = false → s.answer = some (.err e) →
      exec (.write t) s = .next { s.consume with rsp := .busError e, phase := .resp }) ∧
    ∀ p : Payload, decode ((6 : BitVec 3) ++ p) = .write (DateTime.ofPayload p)

/-- R100: the request transfers before an answer is taken. That the transfer is a step of its own, in which nothing
else changes, is the model's (log 9), and so is that a request not yet accepted is held by a step to the same state
(log 11). -/
def Obligations.RequestTransfersBeforeTheAnswer : Prop :=
  ∀ s : State, s.reqValid = true →
    ((s.phase = .initW1 ∨ s.phase = .initW2) → exec .init s = .next { s with reqValid := !s.busReqReady }) ∧
    (s.phase = .rdWait → exec .read s = .next { s with reqValid := !s.busReqReady }) ∧
    (∀ t, s.phase = .wrWait → exec (.write t) s = .next { s with reqValid := !s.busReqReady })

/-- R174, "the complete edge list": a meaning stops, with `noEdge`, in exactly the phases from which the list has
no edge for its operation. That it stops by a fault there is the model's choice (log 13). -/
def Obligations.NoStepWithoutAnEdge : Prop :=
  ∀ (i : Instr) (s : State), exec i s = .fault .noEdge ↔
    s.phase ≠ .exec ∧ ¬ (i = .init ∧ (s.phase = .initW1 ∨ s.phase = .initW2)) ∧
    ¬ (i = .read ∧ s.phase = .rdWait) ∧ ¬ ((∃ t, i = .write t) ∧ s.phase = .wrWait)

/-- R172: CLOSE completes with OK and changes nothing else. -/
def Obligations.CloseCompletes : Prop :=
  (∀ s : State, s.phase = .exec → exec .close s = .next { s with rsp := .ok .nothing, phase := .resp }) ∧
  ∀ p : Payload, decode ((7 : BitVec 3) ++ p) = .close

/-- R173 (which the spec marks as derived): a whole CLOSE leaves the block, the chip and the bus exactly as they
were, but for the response delivered. The number of steps, the value of a dead latch and the record of the
responses are the model's (log 1, 3, 16). -/
def Obligations.CloseChangesNothing : Prop :=
  ∀ (s : State) (c : Command) (cs : List Command), s.Willing → s.phase = .idle → s.cmds = c :: cs →
    commandCode c = 7 →
      Host.Core.run Sys2Proof.core 3 s =
        .next { s.blockReset with cmds := cs, delivered := s.delivered ++ [.ok .nothing] }

/-! ### Error conditions (60_exceptions.md) -/

/-- R58, R191: BUS_ERROR carries the error of the transaction unchanged, and arises from nothing else. -/
def Obligations.BusErrorIsTheTransactionsError : Prop :=
  (∀ (s : State) (e : BusErr), s.Consistent → s.rst = false → s.outstanding = true → s.reqValid = false →
    s.answer = some (.err e) → ∃ t, step s = .next t ∧ t.phase = .resp ∧ t.rsp = .busError e) ∧
  (∀ (s t : State) (e : BusErr), step s = .next t → s.phase ≠ .resp → t.phase = .resp →
    t.rsp = .busError e → s.outstanding = true ∧ s.reqValid = false ∧ s.answer = some (.err e))

/-- R198: the order of the conditions. INVALID_VALUE comes from the operand alone, before any transaction;
BUS_ERROR from a failing transaction, whatever VL would have been; LOW_VOLTAGE only after a successful read. -/
def Obligations.ConditionPriority : Prop :=
  (∀ (s : State) (t : DateTime), s.rst = false → s.phase = .exec → s.instr = .write t → ¬ InRange t →
    ∃ u, step s = .next u ∧ u.phase = .resp ∧ u.rsp = .invalidValue ∧ u.busLog = s.busLog) ∧
  (∀ (s : State) (e : BusErr), s.phase = .rdWait → s.reqValid = false → s.answer = some (.err e) →
    ∃ u, exec .read s = .next u ∧ u.phase = .resp ∧ u.rsp = .busError e) ∧
  (∀ (s u : State) (t : DateTime), step s = .next u → s.phase ≠ .resp → u.phase = .resp →
    u.rsp = .lowVoltage t →
      (∃ B, s.instr = .rdec B ∧ B.b0.getLsbD 7 = true) ∨
      (s.instr = .read ∧ ∃ B, s.answer = some (.ok B) ∧ B.b0.getLsbD 7 = true)) ∧
  (∀ (s u : State), step s = .next u → s.phase ≠ .resp → u.phase = .resp → u.rsp = .invalidValue →
    s.phase = .exec ∧ u.busLog = s.busLog)

/-- R199: after the host takes a response with any status the block is idle and as after reset, and the
condition leaves no trace. That the dead latches return to their reset value is the model's choice (log 3). -/
def Obligations.ConditionLeavesNoTrace : Prop :=
  ∀ s : State, s.rst = false → s.rspReady = true → s.phase = .resp →
    ∃ t, step s = .next t ∧ t.phase = State.reset.phase ∧ t.op = State.reset.op ∧ t.arg = State.reset.arg ∧
      t.blk = State.reset.blk ∧ t.rsp = State.reset.rsp ∧ t.reqValid = State.reset.reqValid ∧
      t.chip = s.chip ∧ t.delivered = s.delivered ++ [s.rsp] ∧
      ∀ r : Response, step { s with rsp := r } = .next { t with delivered := s.delivered ++ [r] }

/-- R232: a transaction that never answers leaves the block as it is for ever: busy, no command accepted, no
response. That the wait is a step to the same state is the model's (log 11). -/
def Obligations.HungTransactionStaysForEver : Prop :=
  ∀ s : State, s.Consistent → s.rst = false → s.outstanding = true → s.reqValid = false → s.answer = none →
    ∀ n, Host.Core.run Sys2Proof.core n s = .next s

/-- R232, R236: if the transport accepts requests and answers the next two transactions, whether from `answers` or
through the target (StoreBus, FailBus, an oracle that answers), every operation ends, five steps after EXEC at the
latest. (The number of steps is the model's, log 1: the edges of R174 and the transfers of R100.) -/
def Obligations.OperationEndsIfTheBusAnswers : Prop :=
  ∀ s : State, s.Willing → s.phase = .exec → s.answer ≠ none → s.consume.answer ≠ none →
      ∃ n t, n ≤ 5 ∧ Host.Core.run Sys2Proof.core n s = .next t ∧ t.phase = .resp ∧
        t.delivered = s.delivered

/-- R21: between operations nothing the block holds matters. From an idle block, the responses, the transactions
and the chip's content of a run of any length do not depend on the latches or on what came before. They are read
from the model's own records (log 16). -/
def Obligations.OutcomeDependsOnCommandAndAnswersOnly : Prop :=
  ∀ (n : Nat) (s u : State) (o : BitVec 3) (a : Payload) (b : RegisterBlock) (r : Response)
    (d : List Response) (l : List Request),
    s.phase = .idle → Host.Core.run Sys2Proof.core n s = .next u →
      ∃ u' ds ls, Host.Core.run Sys2Proof.core n
          { s with op := o, arg := a, blk := b, rsp := r, delivered := d, busLog := l } = .next u' ∧
        u.delivered = s.delivered ++ ds ∧ u'.delivered = d ++ ds ∧
        u.busLog = s.busLog ++ ls ∧ u'.busLog = l ++ ls ∧ u'.chip = u.chip ∧ u'.phase = u.phase

/-! ### Targets (20_memory.md section 5) -/

/-- R171 (which the spec marks as derived): on StoreBus, WRITE of a valid DateTime and then READ answer OK and OK
with that DateTime; the number of steps is the model's (log 1). -/
def Obligations.WriteThenReadOnStoreBus : Prop :=
  ∀ (s : State) (t : DateTime) (rest : List Command), s.Willing → s.phase = .idle →
    s.answers = [] → s.target = .storeBus → validDt t = true →
    s.cmds = encode (.write t) :: encode .read :: rest →
      ∃ u, Host.Core.run Sys2Proof.core 10 s = .next u ∧ u.phase = .idle ∧ u.cmds = rest ∧
        u.delivered = s.delivered ++ [.ok .nothing, .ok (.dateTime t)]

/-- R71, R197: on FailBus nothing the block does ever changes the chip, and an operation that reaches the bus
ends with that error. -/
def Obligations.FailBusNeverChangesTheChip : Prop :=
  ∀ (s : State) (e : BusErr), s.answers = [] → s.target = .failBus e →
    (∀ n t, Host.Core.run Sys2Proof.core n s = .next t → t.chip = s.chip) ∧
    (∀ t, step s = .next t → s.phase ≠ .resp → s.outstanding = true → t.phase = .resp → t.rsp = .busError e)

/-! ### Frames -/

/-- R52, R130, R133, R147, R151, R172: BCDENC, BCDDEC, RENC, RDEC and CLOSE change `phase` and `rsp` and nothing
else: no latch, no byte of the chip, nothing on the bus. -/
def Obligations.PureOperationsFrame : Prop :=
  ∀ (i : Instr) (s t : State),
    ((∃ v, i = .bcdenc v) ∨ (∃ b, i = .bcddec b) ∨ (∃ d, i = .renc d) ∨ (∃ B, i = .rdec B) ∨ i = .close) →
    exec i s = .next t →
      t = { s with phase := t.phase, rsp := t.rsp } ∧ ∀ x, t.chip.read x = s.chip.read x

/-- R160, R163: INIT changes `phase`, `rsp`, the request and the environment's place, and of the chip only the
byte its outstanding write stores to, with 0x00. -/
def Obligations.InitFrame : Prop :=
  ∀ s t : State, exec .init s = .next t →
    t = { s with phase := t.phase, rsp := t.rsp, reqValid := t.reqValid, chip := t.chip, answers := t.answers,
                 draw := t.draw, busLog := t.busLog } ∧
    (∀ x, (∀ reg bytes, s.request = some (.write reg bytes) →
        ¬ (reg.toNat ≤ x ∧ x < reg.toNat + bytes.length)) → t.chip.read x = s.chip.read x) ∧
    (∀ x, t.chip.read x = s.chip.read x ∨ t.chip.read x = some 0x00)

/-- R164, R24: READ changes `phase`, `blk`, `rsp`, the request and the environment's place, and no byte of the
chip. -/
def Obligations.ReadFrame : Prop :=
  ∀ s t : State, exec .read s = .next t →
    t = { s with phase := t.phase, blk := t.blk, rsp := t.rsp, reqValid := t.reqValid, answers := t.answers,
                 draw := t.draw, busLog := t.busLog } ∧
    ∀ x, t.chip.read x = s.chip.read x

/-- R168, R24: WRITE changes `phase`, `blk`, `rsp`, the request and the environment's place, and of the chip only
the bytes its outstanding write stores to. -/
def Obligations.WriteFrame : Prop :=
  ∀ (d : DateTime) (s t : State), exec (.write d) s = .next t →
    t = { s with phase := t.phase, blk := t.blk, rsp := t.rsp, reqValid := t.reqValid, chip := t.chip,
                 answers := t.answers, draw := t.draw, busLog := t.busLog } ∧
    ∀ x, (∀ reg bytes, s.request = some (.write reg bytes) →
        ¬ (reg.toNat ≤ x ∧ x < reg.toNat + bytes.length)) → t.chip.read x = s.chip.read x

/-! ### Ports (30_encoding.md) -/

/-- R97: the status codes. -/
def Obligations.StatusCodes : Prop :=
  ∀ s : State, s.phase = .resp →
    (∀ v, s.rsp = .ok v → s.outputs.rspStatus = 0) ∧ (∀ e, s.rsp = .busError e → s.outputs.rspStatus = 1) ∧
    (∀ t, s.rsp = .lowVoltage t → s.outputs.rspStatus = 2) ∧ (s.rsp = .invalidValue → s.outputs.rspStatus = 3)

/-- R90, R100: the ready and valid ports follow the phase. bus_req_valid is the latch `reqValid`, and in a
consistent state it is 1 only in a waiting phase. That bus_rsp_ready is 1 in the whole of a waiting phase, before
the request transfers too, is the model's (log 9). -/
def Obligations.PortsFollowThePhase : Prop :=
  ∀ s : State, s.outputs.busReqValid = s.reqValid ∧
    (s.Consistent → s.outputs.busReqValid = true →
      s.phase = .initW1 ∨ s.phase = .initW2 ∨ s.phase = .rdWait ∨ s.phase = .wrWait) ∧
    (s.outputs.cmdReady = true ↔ s.phase = .idle) ∧ (s.outputs.rspValid = true ↔ s.phase = .resp) ∧
    (s.outputs.busRspReady = true ↔
      s.phase = .initW1 ∨ s.phase = .initW2 ∨ s.phase = .rdWait ∨ s.phase = .wrWait)

/-- R96: the listed bits of `rsp_data`, and `rsp_buserr`, in RESP. -/
def Obligations.ResponsePortsCarryTheResult : Prop :=
  ∀ s : State, s.phase = .resp →
    (∀ b, s.rsp = .ok (.byte b) → s.outputs.rspData.extractLsb' 0 8 = b) ∧
    (∀ B, s.rsp = .ok (.block B) → RegisterBlock.ofPacked (s.outputs.rspData.extractLsb' 0 56) = B) ∧
    (∀ t, s.rsp = .ok (.dateTime t) → DateTime.ofPayload s.outputs.rspData = t) ∧
    (∀ t, s.rsp = .lowVoltage t → DateTime.ofPayload s.outputs.rspData = t) ∧
    (∀ e, s.rsp = .busError e → s.outputs.rspBuserr = e)

/-- R59, R99: the request port in each waiting phase. While bus_req_valid is 1 this is R90's; that the port still
shows the request after it has transferred is the model's choice (log 26). -/
def Obligations.RequestPortsCarryTheTransaction : Prop :=
  ∀ s : State,
    (s.phase = .initW1 → s.outputs.busReqWrite = true ∧ s.outputs.busReqReg = 0x00 ∧ s.outputs.busReqLen = 1 ∧
      s.outputs.busReqWdata.extractLsb' 0 8 = 0x00) ∧
    (s.phase = .initW2 → s.outputs.busReqWrite = true ∧ s.outputs.busReqReg = 0x01 ∧ s.outputs.busReqLen = 1 ∧
      s.outputs.busReqWdata.extractLsb' 0 8 = 0x00) ∧
    (s.phase = .rdWait → s.outputs.busReqWrite = false ∧ s.outputs.busReqReg = 0x02 ∧
      s.outputs.busReqLen = 7) ∧
    (s.phase = .wrWait → s.outputs.busReqWrite = true ∧ s.outputs.busReqReg = 0x02 ∧ s.outputs.busReqLen = 7 ∧
      RegisterBlock.ofPacked s.outputs.busReqWdata = s.blk)
end

