-- ==== Sys2Proof/Laws/Codec.lean ====
section
/-!
SUPPORT. One spec lemma per function of the codec (40_bcd_codec.md, 41_regmap_codec.md).
-/

namespace Sys2Proof.Machine

/-- `bcd_enc` on its domain (R131). -/
theorem bcdEnc_of_le {v : Byte} (h : v ≤ 99) : bcdEnc v = some (((v / 10) <<< 4) ||| (v % 10)) :=
  if_pos h

/-- `bcd_enc` off its domain (R132). -/
theorem bcdEnc_of_not_le {v : Byte} (h : ¬ v ≤ 99) : bcdEnc v = none := if_neg h

/-- The fields of a DateTime that `valid_dt` accepts, one by one (R146). -/
theorem validDt_iff (t : DateTime) : validDt t = true ↔
    t.sec ≤ 59 ∧ t.min ≤ 59 ∧ t.hour ≤ 23 ∧ (1 ≤ t.day ∧ t.day ≤ 31) ∧ t.wday ≤ 6 ∧
      (1 ≤ t.month ∧ t.month ≤ 12) ∧ (1900 ≤ t.year ∧ t.year ≤ 2099) := by
  simp [validDt, and_assoc]

/-- A two-digit year is in the domain of `bcd_enc`. -/
theorem twoDigitYear_le (y : BitVec 16) : twoDigitYear y ≤ 99 := by
  have h : (twoDigitYear y).toNat = y.toNat % 100 % 256 := by simp [twoDigitYear]
  have h' : (99 : Byte).toNat = 99 := rfl
  rw [BitVec.le_def, h, h']
  omega

/-- `blk_enc` of a valid DateTime (R148). -/
theorem blkEnc_of_valid {t : DateTime} (h : validDt t = true) :
    blkEnc t = some
      ⟨(((t.sec / 10) <<< 4) ||| (t.sec % 10)) &&& 0x7F, ((t.min / 10) <<< 4) ||| (t.min % 10),
        ((t.hour / 10) <<< 4) ||| (t.hour % 10), ((t.day / 10) <<< 4) ||| (t.day % 10),
        ((t.wday / 10) <<< 4) ||| (t.wday % 10),
        (((t.month / 10) <<< 4) ||| (t.month % 10)) ||| centuryMask t.year,
        ((twoDigitYear t.year / 10) <<< 4) ||| (twoDigitYear t.year % 10)⟩ := by
  have hv := (validDt_iff t).mp h
  have le99 : ∀ {v c : Byte}, v ≤ c → c ≤ 99 → v ≤ 99 := fun a b => BitVec.le_trans a b
  simp only [blkEnc, h, if_true, bcdEnc_of_le (le99 hv.1 (by decide)),
    bcdEnc_of_le (le99 hv.2.1 (by decide)), bcdEnc_of_le (le99 hv.2.2.1 (by decide)),
    bcdEnc_of_le (le99 hv.2.2.2.1.2 (by decide)), bcdEnc_of_le (le99 hv.2.2.2.2.1 (by decide)),
    bcdEnc_of_le (le99 hv.2.2.2.2.2.1.2 (by decide)), bcdEnc_of_le (twoDigitYear_le t.year)]

/-- `blk_enc` of any other DateTime (R150). -/
theorem blkEnc_of_invalid {t : DateTime} (h : validDt t = false) : blkEnc t = none := by
  simp [blkEnc, h]

/-- `blk_enc` has a value exactly when `valid_dt` holds (R148, R150). -/
theorem blkEnc_isSome_iff (t : DateTime) : (∃ B, blkEnc t = some B) ↔ validDt t = true := by
  cases h : validDt t
  · simp [blkEnc_of_invalid h]
  · simp [blkEnc_of_valid h]

end Sys2Proof.Machine
end

