-- ==== Sys2Proof/Laws/Encoding.lean ====
section
/-!
SUPPORT. Laws of the command format: payload fields read back, codes read back, well-formedness of every
operation.
-/

namespace Sys2Proof

/-- The code of a command built from a code and a payload. -/
@[simp] theorem commandCode_append (op : BitVec 3) (p : Payload) : commandCode (op ++ p) = op :=
  BitVec.extractLsb'_append_eq_left

/-- The payload of a command built from a code and a payload. -/
@[simp] theorem commandData_append (op : BitVec 3) (p : Payload) : commandData (op ++ p) = p :=
  BitVec.extractLsb'_append_eq_right

/-- A command is its code and its payload. -/
theorem command_eq_append (c : Command) : c = commandCode c ++ commandData c :=
  (BitVec.extractLsb'_append_extractLsb' (w := 3) (len := 64) (x := c)).symm

/-- The decoder reads the code and the payload it was given. -/
@[simp] theorem decode_append (op : BitVec 3) (p : Payload) : decode (op ++ p) = decodeFields op p := by
  simp [decode]

/-- A slice of an append that lies in its high part. -/
theorem slice_high {v w : Nat} (hi : BitVec v) (lo : BitVec w) {start : Nat} (h : w ≤ start) (len : Nat) :
    (hi ++ lo).extractLsb' start len = hi.extractLsb' (start - w) len :=
  BitVec.extractLsb'_append_eq_of_le h

/-- A slice of an append that lies in its low part. -/
theorem slice_low {v w : Nat} (hi : BitVec v) (lo : BitVec w) {start len : Nat} (h : start + len ≤ w) :
    (hi ++ lo).extractLsb' start len = lo.extractLsb' start len :=
  BitVec.extractLsb'_append_eq_of_add_le h

/-- A slice above the low part of an append, from the slice of the high part. -/
theorem peel {v w : Nat} (hi : BitVec v) (lo : BitVec w) {start len : Nat} {x : BitVec len} (h : w ≤ start)
    (e : hi.extractLsb' (start - w) len = x) : (hi ++ lo).extractLsb' start len = x :=
  (slice_high hi lo h len).trans e

/-- A DateTime record reads back from its payload (R102). -/
@[simp] theorem DateTime.ofPayload_toPayload (t : DateTime) : DateTime.ofPayload t.toPayload = t := by
  cases t
  simp only [DateTime.ofPayload, DateTime.toPayload, DateTime.mk.injEq]
  exact ⟨BitVec.extractLsb'_append_eq_right,
    peel _ _ (by decide) (BitVec.extractLsb'_append_eq_right),
    peel _ _ (by decide) (peel _ _ (by decide) (BitVec.extractLsb'_append_eq_right)),
    peel _ _ (by decide) (peel _ _ (by decide) (peel _ _ (by decide) (BitVec.extractLsb'_append_eq_right))),
    peel _ _ (by decide) (peel _ _ (by decide) (peel _ _ (by decide) (peel _ _ (by decide) (BitVec.extractLsb'_append_eq_right)))),
    peel _ _ (by decide) (peel _ _ (by decide) (peel _ _ (by decide) (peel _ _ (by decide) (peel _ _ (by decide) (BitVec.extractLsb'_append_eq_right))))),
    peel _ _ (by decide) (peel _ _ (by decide) (peel _ _ (by decide) (peel _ _ (by decide) (peel _ _ (by decide) (BitVec.extractLsb'_append_eq_left)))))⟩

/-- Seven bytes read back from their packing (R104). -/
@[simp] theorem RegisterBlock.ofPacked_toPacked (B : RegisterBlock) :
    RegisterBlock.ofPacked B.toPacked = B := by
  cases B
  simp only [RegisterBlock.ofPacked, RegisterBlock.toPacked, RegisterBlock.mk.injEq]
  exact ⟨BitVec.extractLsb'_append_eq_right,
    peel _ _ (by decide) (BitVec.extractLsb'_append_eq_right),
    peel _ _ (by decide) (peel _ _ (by decide) (BitVec.extractLsb'_append_eq_right)),
    peel _ _ (by decide) (peel _ _ (by decide) (peel _ _ (by decide) (BitVec.extractLsb'_append_eq_right))),
    peel _ _ (by decide) (peel _ _ (by decide) (peel _ _ (by decide) (peel _ _ (by decide) (BitVec.extractLsb'_append_eq_right)))),
    peel _ _ (by decide) (peel _ _ (by decide) (peel _ _ (by decide) (peel _ _ (by decide) (peel _ _ (by decide) (BitVec.extractLsb'_append_eq_right))))),
    peel _ _ (by decide) (peel _ _ (by decide) (peel _ _ (by decide) (peel _ _ (by decide) (peel _ _ (by decide) (BitVec.extractLsb'_append_eq_left)))))⟩

/-- The low bits of a widened value are the value. -/
@[simp] theorem slice_setWidth {v w : Nat} (x : BitVec v) (h : v ≤ w) : (x.setWidth w).extractLsb' 0 v = x := by
  ext i hi
  simp [hi, show i < w by omega, BitVec.getLsbD_eq_getElem]

/-- A slice of a slice. -/
theorem slice_slice {w : Nat} (x : BitVec w) (a b c d : Nat) (h : c + d ≤ b) :
    (x.extractLsb' a b).extractLsb' c d = x.extractLsb' (a + c) d := by
  ext i hi
  simp [show c + i < b by omega, Nat.add_assoc]

/-- The check on a written DateTime, by its numerals. -/
theorem DateTimeText.fits_iff (t : DateTimeText) : t.fits = true ↔
    t.sec < 256 ∧ t.min < 256 ∧ t.hour < 256 ∧ t.day < 256 ∧ t.wday < 256 ∧ t.month < 256 ∧ t.year < 65536 := by
  simp [DateTimeText.fits, fitsByte, and_assoc]

/-- A written DateTime that fits is read without loss. -/
theorem DateTimeText.toText_toDateTime {t : DateTimeText} (h : t.fits = true) : t.toDateTime.toText = t := by
  obtain ⟨h1, h2, h3, h4, h5, h6, h7⟩ := t.fits_iff.mp h
  cases t
  simp_all [DateTimeText.toDateTime, DateTime.toText, Nat.mod_eq_of_lt]

/-- The bytes of a block, written, are read back. -/
@[simp] theorem RegisterBlock.ofText_toList (B : RegisterBlock) :
    RegisterBlock.ofText (B.toList.map BitVec.toNat) = some B := by
  cases B
  simp [RegisterBlock.toList, RegisterBlock.ofText]

/-- Every operation is well-formed: its operand types leave nothing malformed. -/
theorem Instr.wellFormed_all (i : Instr) : i.wellFormed = true := by
  cases i <;>
    simp [Instr.wellFormed, Instr.toLine, Line.wellFormed, DateTimeText.fits, DateTime.toText, fitsByte,
      RegisterBlock.toList] <;> omega

end Sys2Proof
end

