-- ==== Sys2Proof/Laws/Memory.lean ====
section
/-!
SUPPORT. Laws of the chip's memory: reading after writing, and the canonical form.
-/

namespace Sys2Proof.Machine

/-- Reading any offset after writing one byte: the byte written there, every other offset as before. -/
theorem Memory.read_write (m : Memory) (x : Nat) (v : Byte) (y : Nat) :
    Memory.read (Memory.write m x v) y = if y = x then some v else Memory.read m y := by
  induction m with
  | nil => simp [Memory.write, Memory.read]
  | cons c rest ih =>
    obtain ⟨a, b⟩ := c
    simp only [Memory.write]
    split
    · simp [Memory.read]
    · split
      · next h1 h2 => subst h2; by_cases hy : y = x <;> simp [Memory.read, hy]
      · next h1 h2 =>
        by_cases hy : y = a
        · have : y ≠ x := by omega
          simp [Memory.read, hy, Ne.symm h2]
        · simp [Memory.read, hy, ih]

/-- Reading any offset after writing bytes at ascending offsets. -/
theorem Memory.read_writeBytes (vs : List Byte) :
    ∀ (m : Memory) (x y : Nat), Memory.read (Memory.writeBytes m x vs) y =
      if h : x ≤ y ∧ y < x + vs.length then some (vs[y - x]'(by omega)) else Memory.read m y := by
  induction vs with
  | nil => intro m x y; simp [Memory.writeBytes]
  | cons v vs ih =>
    intro m x y
    rw [Memory.writeBytes, ih, Memory.read_write]
    by_cases hx : y = x
    · subst hx; simp
    · by_cases h1 : x + 1 ≤ y ∧ y < x + 1 + vs.length
      · have h2 : x ≤ y ∧ y < x + (v :: vs).length := by simp; omega
        rw [dif_pos h1, dif_pos h2]
        have e : y - x = (y - (x + 1)) + 1 := by omega
        simp [e]
      · have h2 : ¬(x ≤ y ∧ y < x + (v :: vs).length) := by simp; omega
        rw [dif_neg h1, dif_neg h2, if_neg hx]

/-- A rising memory stays rising when one byte is written inside its range. -/
theorem Memory.rising_write (m : Memory) (x : Nat) (v : Byte) :
    ∀ lo, Memory.rising lo m = true → lo ≤ x → x < 256 → Memory.rising lo (Memory.write m x v) = true := by
  induction m with
  | nil => intro lo _ h1 h2; simp [Memory.write, Memory.rising, h1, h2]
  | cons c rest ih =>
    obtain ⟨a, b⟩ := c
    intro lo h h1 h2
    simp only [Memory.rising, Bool.and_eq_true, decide_eq_true_eq] at h
    simp only [Memory.write]
    split
    · simp only [Memory.rising, Bool.and_eq_true, decide_eq_true_eq]
      exact ⟨⟨h1, h2⟩, ⟨by omega, h.1.2⟩, h.2⟩
    · split
      · simp only [Memory.rising, Bool.and_eq_true, decide_eq_true_eq]
        exact ⟨h.1, h.2⟩
      · simp only [Memory.rising, Bool.and_eq_true, decide_eq_true_eq]
        exact ⟨h.1, ih (a + 1) h.2 (by omega) h2⟩

/-- Writing a byte keeps the canonical form. -/
theorem Memory.wf_write {m : Memory} {x : Nat} {v : Byte} (h : m.wf = true) (hx : x < 256) :
    (Memory.write m x v).wf = true :=
  Memory.rising_write m x v 0 h (Nat.zero_le x) hx

/-- Writing bytes keeps the canonical form. -/
theorem Memory.wf_writeBytes {vs : List Byte} :
    ∀ {m : Memory} {x : Nat}, m.wf = true → x + vs.length ≤ 256 → (Memory.writeBytes m x vs).wf = true := by
  induction vs with
  | nil => intro m x h _; exact h
  | cons v vs ih =>
    intro m x h hx
    simp only [List.length_cons] at hx
    exact ih (Memory.wf_write h (by omega)) (by omega)

/-- What StoreBus presents where a byte has been written. -/
theorem Memory.present_of_read {m : Memory} {x : Nat} {b : Byte} (h : m.read x = some b) : m.present x = b := by
  simp [Memory.present, h]

/-- Reading back the seven bytes just written (R71). -/
theorem Memory.presentBlock_writeBytes (m : Memory) (x : Nat) (B : RegisterBlock) :
    (Memory.writeBytes m x B.toList).presentBlock x = B := by
  cases B
  simp [Memory.presentBlock, Memory.present, Memory.read_writeBytes, RegisterBlock.toList]

/-- Memories with one canonical form agree when they agree on every offset. -/
theorem Memory.ext_of_rising (m : Memory) :
    ∀ (m' : Memory) (lo : Nat), Memory.rising lo m = true → Memory.rising lo m' = true →
      (∀ x, m.read x = m'.read x) → m = m' := by
  have low : ∀ (m : Memory) (lo x : Nat), Memory.rising lo m = true → x < lo → m.read x = none := by
    intro m
    induction m with
    | nil => intro lo x _ _; rfl
    | cons c rest ih =>
      obtain ⟨a, b⟩ := c
      intro lo x h hx
      simp only [Memory.rising, Bool.and_eq_true, decide_eq_true_eq] at h
      have : x ≠ a := by omega
      simp only [Memory.read, if_neg this]
      exact ih (a + 1) x h.2 (by omega)
  induction m with
  | nil =>
    intro m' lo _ h' e
    match m', h', e with
    | [], _, _ => rfl
    | (a, b) :: rest, _, e => have := e a; simp [Memory.read] at this
  | cons c rest ih =>
    obtain ⟨a, b⟩ := c
    intro m' lo h h' e
    match m', h', e with
    | [], _, e => have := e a; simp [Memory.read] at this
    | (a', b') :: rest', h', e =>
      simp only [Memory.rising, Bool.and_eq_true, decide_eq_true_eq] at h h'
      have ha : a = a' := by
        rcases Nat.lt_trichotomy a a' with hlt | heq | hgt
        · have := e a
          have hn := low rest' (a' + 1) a h'.2 (by omega)
          simp [Memory.read, Nat.ne_of_lt hlt, hn] at this
        · exact heq
        · have := e a'
          have hn := low rest (a + 1) a' h.2 (by omega)
          simp [Memory.read, Nat.ne_of_lt hgt, hn] at this
      subst ha
      have hb := e a
      simp only [Memory.read, if_pos, Option.some.injEq] at hb
      subst hb
      refine congrArg _ (ih rest' (a + 1) h.2 h'.2 fun x => ?_)
      by_cases hx : x = a
      · subst hx
        rw [low rest (x + 1) x h.2 (by omega), low rest' (x + 1) x h'.2 (by omega)]
      · have := e x
        simpa [Memory.read, hx] using this

end Sys2Proof.Machine
end

