-- ==== Sys2Proof/Laws/State.lean ====
section
/-!
SUPPORT. What each update of the state does to each field, so that no later proof unfolds a record update.
-/

namespace Sys2Proof.Machine


/-! ### Latching a command: `State.latch` -/

@[simp] theorem State.latch_phase (s : State) (c : Command) :
    (s.latch c).phase = .exec := rfl
@[simp] theorem State.latch_op (s : State) (c : Command) :
    (s.latch c).op = commandCode c := rfl
@[simp] theorem State.latch_arg (s : State) (c : Command) :
    (s.latch c).arg = commandData c := rfl
@[simp] theorem State.latch_blk (s : State) (c : Command) :
    (s.latch c).blk = s.blk := rfl
@[simp] theorem State.latch_rsp (s : State) (c : Command) :
    (s.latch c).rsp = s.rsp := rfl
@[simp] theorem State.latch_reqValid (s : State) (c : Command) :
    (s.latch c).reqValid = s.reqValid := rfl
@[simp] theorem State.latch_chip (s : State) (c : Command) :
    (s.latch c).chip = s.chip := rfl
@[simp] theorem State.latch_rst (s : State) (c : Command) :
    (s.latch c).rst = s.rst := rfl
@[simp] theorem State.latch_cmds (s : State) (c : Command) :
    (s.latch c).cmds = s.cmds := rfl
@[simp] theorem State.latch_rspReady (s : State) (c : Command) :
    (s.latch c).rspReady = s.rspReady := rfl
@[simp] theorem State.latch_busReqReady (s : State) (c : Command) :
    (s.latch c).busReqReady = s.busReqReady := rfl
@[simp] theorem State.latch_answers (s : State) (c : Command) :
    (s.latch c).answers = s.answers := rfl
@[simp] theorem State.latch_target (s : State) (c : Command) :
    (s.latch c).target = s.target := rfl
@[simp] theorem State.latch_draw (s : State) (c : Command) :
    (s.latch c).draw = s.draw := rfl
@[simp] theorem State.latch_delivered (s : State) (c : Command) :
    (s.latch c).delivered = s.delivered := rfl
@[simp] theorem State.latch_busLog (s : State) (c : Command) :
    (s.latch c).busLog = s.busLog := rfl

/-! ### Producing a response: `State.respond` -/

@[simp] theorem State.respond_phase (s : State) (r : Response) :
    (s.respond r).phase = .resp := rfl
@[simp] theorem State.respond_op (s : State) (r : Response) :
    (s.respond r).op = s.op := rfl
@[simp] theorem State.respond_arg (s : State) (r : Response) :
    (s.respond r).arg = s.arg := rfl
@[simp] theorem State.respond_blk (s : State) (r : Response) :
    (s.respond r).blk = s.blk := rfl
@[simp] theorem State.respond_rsp (s : State) (r : Response) :
    (s.respond r).rsp = r := rfl
@[simp] theorem State.respond_reqValid (s : State) (r : Response) :
    (s.respond r).reqValid = s.reqValid := rfl
@[simp] theorem State.respond_chip (s : State) (r : Response) :
    (s.respond r).chip = s.chip := rfl
@[simp] theorem State.respond_rst (s : State) (r : Response) :
    (s.respond r).rst = s.rst := rfl
@[simp] theorem State.respond_cmds (s : State) (r : Response) :
    (s.respond r).cmds = s.cmds := rfl
@[simp] theorem State.respond_rspReady (s : State) (r : Response) :
    (s.respond r).rspReady = s.rspReady := rfl
@[simp] theorem State.respond_busReqReady (s : State) (r : Response) :
    (s.respond r).busReqReady = s.busReqReady := rfl
@[simp] theorem State.respond_answers (s : State) (r : Response) :
    (s.respond r).answers = s.answers := rfl
@[simp] theorem State.respond_target (s : State) (r : Response) :
    (s.respond r).target = s.target := rfl
@[simp] theorem State.respond_draw (s : State) (r : Response) :
    (s.respond r).draw = s.draw := rfl
@[simp] theorem State.respond_delivered (s : State) (r : Response) :
    (s.respond r).delivered = s.delivered := rfl
@[simp] theorem State.respond_busLog (s : State) (r : Response) :
    (s.respond r).busLog = s.busLog := rfl

/-! ### Issuing a transaction: `State.issue` -/

@[simp] theorem State.issue_phase (s : State) (p : Phase) :
    (s.issue p).phase = p := rfl
@[simp] theorem State.issue_op (s : State) (p : Phase) :
    (s.issue p).op = s.op := rfl
@[simp] theorem State.issue_arg (s : State) (p : Phase) :
    (s.issue p).arg = s.arg := rfl
@[simp] theorem State.issue_blk (s : State) (p : Phase) :
    (s.issue p).blk = s.blk := rfl
@[simp] theorem State.issue_rsp (s : State) (p : Phase) :
    (s.issue p).rsp = s.rsp := rfl
@[simp] theorem State.issue_reqValid (s : State) (p : Phase) :
    (s.issue p).reqValid = true := rfl
@[simp] theorem State.issue_chip (s : State) (p : Phase) :
    (s.issue p).chip = s.chip := rfl
@[simp] theorem State.issue_rst (s : State) (p : Phase) :
    (s.issue p).rst = s.rst := rfl
@[simp] theorem State.issue_cmds (s : State) (p : Phase) :
    (s.issue p).cmds = s.cmds := rfl
@[simp] theorem State.issue_rspReady (s : State) (p : Phase) :
    (s.issue p).rspReady = s.rspReady := rfl
@[simp] theorem State.issue_busReqReady (s : State) (p : Phase) :
    (s.issue p).busReqReady = s.busReqReady := rfl
@[simp] theorem State.issue_answers (s : State) (p : Phase) :
    (s.issue p).answers = s.answers := rfl
@[simp] theorem State.issue_target (s : State) (p : Phase) :
    (s.issue p).target = s.target := rfl
@[simp] theorem State.issue_draw (s : State) (p : Phase) :
    (s.issue p).draw = s.draw := rfl
@[simp] theorem State.issue_delivered (s : State) (p : Phase) :
    (s.issue p).delivered = s.delivered := rfl
@[simp] theorem State.issue_busLog (s : State) (p : Phase) :
    (s.issue p).busLog = s.busLog ++ (p.request s.blk).toList := rfl

/-! ### Resetting the block: `State.blockReset` -/

@[simp] theorem State.blockReset_phase (s : State) :
    (s.blockReset).phase = .idle := rfl
@[simp] theorem State.blockReset_op (s : State) :
    (s.blockReset).op = 0 := rfl
@[simp] theorem State.blockReset_arg (s : State) :
    (s.blockReset).arg = 0 := rfl
@[simp] theorem State.blockReset_blk (s : State) :
    (s.blockReset).blk = RegisterBlock.zero := rfl
@[simp] theorem State.blockReset_rsp (s : State) :
    (s.blockReset).rsp = .ok .nothing := rfl
@[simp] theorem State.blockReset_reqValid (s : State) :
    (s.blockReset).reqValid = false := rfl
@[simp] theorem State.blockReset_chip (s : State) :
    (s.blockReset).chip = s.chip := rfl
@[simp] theorem State.blockReset_rst (s : State) :
    (s.blockReset).rst = s.rst := rfl
@[simp] theorem State.blockReset_cmds (s : State) :
    (s.blockReset).cmds = s.cmds := rfl
@[simp] theorem State.blockReset_rspReady (s : State) :
    (s.blockReset).rspReady = s.rspReady := rfl
@[simp] theorem State.blockReset_busReqReady (s : State) :
    (s.blockReset).busReqReady = s.busReqReady := rfl
@[simp] theorem State.blockReset_answers (s : State) :
    (s.blockReset).answers = s.answers := rfl
@[simp] theorem State.blockReset_target (s : State) :
    (s.blockReset).target = s.target := rfl
@[simp] theorem State.blockReset_draw (s : State) :
    (s.blockReset).draw = s.draw := rfl
@[simp] theorem State.blockReset_delivered (s : State) :
    (s.blockReset).delivered = s.delivered := rfl
@[simp] theorem State.blockReset_busLog (s : State) :
    (s.blockReset).busLog = s.busLog := rfl

/-! ### Moving on to the next answer: `State.consume` -/

@[simp] theorem State.consume_phase (s : State) : s.consume.phase = s.phase := by
  unfold State.consume; repeat (first | rfl | split)
@[simp] theorem State.consume_op (s : State) : s.consume.op = s.op := by
  unfold State.consume; repeat (first | rfl | split)
@[simp] theorem State.consume_arg (s : State) : s.consume.arg = s.arg := by
  unfold State.consume; repeat (first | rfl | split)
@[simp] theorem State.consume_blk (s : State) : s.consume.blk = s.blk := by
  unfold State.consume; repeat (first | rfl | split)
@[simp] theorem State.consume_rsp (s : State) : s.consume.rsp = s.rsp := by
  unfold State.consume; repeat (first | rfl | split)
@[simp] theorem State.consume_reqValid (s : State) : s.consume.reqValid = s.reqValid := by
  unfold State.consume; repeat (first | rfl | split)
@[simp] theorem State.consume_chip (s : State) : s.consume.chip = s.chip := by
  unfold State.consume; repeat (first | rfl | split)
@[simp] theorem State.consume_rst (s : State) : s.consume.rst = s.rst := by
  unfold State.consume; repeat (first | rfl | split)
@[simp] theorem State.consume_cmds (s : State) : s.consume.cmds = s.cmds := by
  unfold State.consume; repeat (first | rfl | split)
@[simp] theorem State.consume_rspReady (s : State) : s.consume.rspReady = s.rspReady := by
  unfold State.consume; repeat (first | rfl | split)
@[simp] theorem State.consume_busReqReady (s : State) : s.consume.busReqReady = s.busReqReady := by
  unfold State.consume; repeat (first | rfl | split)
@[simp] theorem State.consume_target (s : State) : s.consume.target = s.target := by
  unfold State.consume; repeat (first | rfl | split)
@[simp] theorem State.consume_delivered (s : State) : s.consume.delivered = s.delivered := by
  unfold State.consume; repeat (first | rfl | split)
@[simp] theorem State.consume_busLog (s : State) : s.consume.busLog = s.busLog := by
  unfold State.consume; repeat (first | rfl | split)

/-! ### What an Ok answer says of the chip: `State.applyWrite` -/

@[simp] theorem State.applyWrite_phase (s : State) : s.applyWrite.phase = s.phase := by
  unfold State.applyWrite; split <;> rfl
@[simp] theorem State.applyWrite_op (s : State) : s.applyWrite.op = s.op := by
  unfold State.applyWrite; split <;> rfl
@[simp] theorem State.applyWrite_arg (s : State) : s.applyWrite.arg = s.arg := by
  unfold State.applyWrite; split <;> rfl
@[simp] theorem State.applyWrite_blk (s : State) : s.applyWrite.blk = s.blk := by
  unfold State.applyWrite; split <;> rfl
@[simp] theorem State.applyWrite_rsp (s : State) : s.applyWrite.rsp = s.rsp := by
  unfold State.applyWrite; split <;> rfl
@[simp] theorem State.applyWrite_reqValid (s : State) : s.applyWrite.reqValid = s.reqValid := by
  unfold State.applyWrite; split <;> rfl
@[simp] theorem State.applyWrite_rst (s : State) : s.applyWrite.rst = s.rst := by
  unfold State.applyWrite; split <;> rfl
@[simp] theorem State.applyWrite_cmds (s : State) : s.applyWrite.cmds = s.cmds := by
  unfold State.applyWrite; split <;> rfl
@[simp] theorem State.applyWrite_rspReady (s : State) : s.applyWrite.rspReady = s.rspReady := by
  unfold State.applyWrite; split <;> rfl
@[simp] theorem State.applyWrite_busReqReady (s : State) : s.applyWrite.busReqReady = s.busReqReady := by
  unfold State.applyWrite; split <;> rfl
@[simp] theorem State.applyWrite_answers (s : State) : s.applyWrite.answers = s.answers := by
  unfold State.applyWrite; split <;> rfl
@[simp] theorem State.applyWrite_target (s : State) : s.applyWrite.target = s.target := by
  unfold State.applyWrite; split <;> rfl
@[simp] theorem State.applyWrite_draw (s : State) : s.applyWrite.draw = s.draw := by
  unfold State.applyWrite; split <;> rfl
@[simp] theorem State.applyWrite_delivered (s : State) : s.applyWrite.delivered = s.delivered := by
  unfold State.applyWrite; split <;> rfl
@[simp] theorem State.applyWrite_busLog (s : State) : s.applyWrite.busLog = s.busLog := by
  unfold State.applyWrite; split <;> rfl

/-! ### The transfer of a request: `State.transfer` -/

@[simp] theorem State.transfer_phase (s : State) : s.transfer.phase = s.phase := by
  unfold State.transfer; split <;> rfl
@[simp] theorem State.transfer_op (s : State) : s.transfer.op = s.op := by
  unfold State.transfer; split <;> rfl
@[simp] theorem State.transfer_arg (s : State) : s.transfer.arg = s.arg := by
  unfold State.transfer; split <;> rfl
@[simp] theorem State.transfer_blk (s : State) : s.transfer.blk = s.blk := by
  unfold State.transfer; split <;> rfl
@[simp] theorem State.transfer_rsp (s : State) : s.transfer.rsp = s.rsp := by
  unfold State.transfer; split <;> rfl
@[simp] theorem State.transfer_chip (s : State) : s.transfer.chip = s.chip := by
  unfold State.transfer; split <;> rfl
@[simp] theorem State.transfer_rst (s : State) : s.transfer.rst = s.rst := by
  unfold State.transfer; split <;> rfl
@[simp] theorem State.transfer_cmds (s : State) : s.transfer.cmds = s.cmds := by
  unfold State.transfer; split <;> rfl
@[simp] theorem State.transfer_rspReady (s : State) : s.transfer.rspReady = s.rspReady := by
  unfold State.transfer; split <;> rfl
@[simp] theorem State.transfer_busReqReady (s : State) : s.transfer.busReqReady = s.busReqReady := by
  unfold State.transfer; split <;> rfl
@[simp] theorem State.transfer_answers (s : State) : s.transfer.answers = s.answers := by
  unfold State.transfer; split <;> rfl
@[simp] theorem State.transfer_target (s : State) : s.transfer.target = s.target := by
  unfold State.transfer; split <;> rfl
@[simp] theorem State.transfer_draw (s : State) : s.transfer.draw = s.draw := by
  unfold State.transfer; split <;> rfl
@[simp] theorem State.transfer_delivered (s : State) : s.transfer.delivered = s.delivered := by
  unfold State.transfer; split <;> rfl
@[simp] theorem State.transfer_busLog (s : State) : s.transfer.busLog = s.busLog := by
  unfold State.transfer; split <;> rfl

/-! ### Accepting a command: `State.accept` -/

@[simp] theorem State.accept_blk (s : State) : s.accept.blk = s.blk := by
  unfold State.accept; split <;> rfl
@[simp] theorem State.accept_rsp (s : State) : s.accept.rsp = s.rsp := by
  unfold State.accept; split <;> rfl
@[simp] theorem State.accept_reqValid (s : State) : s.accept.reqValid = s.reqValid := by
  unfold State.accept; split <;> rfl
@[simp] theorem State.accept_chip (s : State) : s.accept.chip = s.chip := by
  unfold State.accept; split <;> rfl
@[simp] theorem State.accept_rst (s : State) : s.accept.rst = s.rst := by
  unfold State.accept; split <;> rfl
@[simp] theorem State.accept_rspReady (s : State) : s.accept.rspReady = s.rspReady := by
  unfold State.accept; split <;> rfl
@[simp] theorem State.accept_busReqReady (s : State) : s.accept.busReqReady = s.busReqReady := by
  unfold State.accept; split <;> rfl
@[simp] theorem State.accept_answers (s : State) : s.accept.answers = s.answers := by
  unfold State.accept; split <;> rfl
@[simp] theorem State.accept_target (s : State) : s.accept.target = s.target := by
  unfold State.accept; split <;> rfl
@[simp] theorem State.accept_draw (s : State) : s.accept.draw = s.draw := by
  unfold State.accept; split <;> rfl
@[simp] theorem State.accept_delivered (s : State) : s.accept.delivered = s.delivered := by
  unfold State.accept; split <;> rfl
@[simp] theorem State.accept_busLog (s : State) : s.accept.busLog = s.busLog := by
  unfold State.accept; split <;> rfl

/-! ### Taking the response: `State.takeResponse` -/

@[simp] theorem State.takeResponse_chip (s : State) : s.takeResponse.chip = s.chip := by
  unfold State.takeResponse; split <;> rfl
@[simp] theorem State.takeResponse_rst (s : State) : s.takeResponse.rst = s.rst := by
  unfold State.takeResponse; split <;> rfl
@[simp] theorem State.takeResponse_cmds (s : State) : s.takeResponse.cmds = s.cmds := by
  unfold State.takeResponse; split <;> rfl
@[simp] theorem State.takeResponse_rspReady (s : State) : s.takeResponse.rspReady = s.rspReady := by
  unfold State.takeResponse; split <;> rfl
@[simp] theorem State.takeResponse_busReqReady (s : State) : s.takeResponse.busReqReady = s.busReqReady := by
  unfold State.takeResponse; split <;> rfl
@[simp] theorem State.takeResponse_answers (s : State) : s.takeResponse.answers = s.answers := by
  unfold State.takeResponse; split <;> rfl
@[simp] theorem State.takeResponse_target (s : State) : s.takeResponse.target = s.target := by
  unfold State.takeResponse; split <;> rfl
@[simp] theorem State.takeResponse_draw (s : State) : s.takeResponse.draw = s.draw := by
  unfold State.takeResponse; split <;> rfl
@[simp] theorem State.takeResponse_busLog (s : State) : s.takeResponse.busLog = s.busLog := by
  unfold State.takeResponse; split <;> rfl

/-! ### The operation in flight -/

/-- The operation in flight is a function of the two command latches. -/
theorem State.instr_congr {s t : State} (h : t.op = s.op) (h' : t.arg = s.arg) : t.instr = s.instr := by
  unfold State.instr
  rw [h, h']

@[simp] theorem State.respond_instr (s : State) (r : Response) : (s.respond r).instr = s.instr := rfl
@[simp] theorem State.issue_instr (s : State) (p : Phase) : (s.issue p).instr = s.instr := rfl
@[simp] theorem State.consume_instr (s : State) : s.consume.instr = s.instr :=
  State.instr_congr (by simp) (by simp)
@[simp] theorem State.applyWrite_instr (s : State) : s.applyWrite.instr = s.instr :=
  State.instr_congr (by simp) (by simp)
@[simp] theorem State.transfer_instr (s : State) : s.transfer.instr = s.instr :=
  State.instr_congr (by simp) (by simp)
@[simp] theorem State.latch_instr (s : State) (c : Command) : (s.latch c).instr = decode c := rfl

/-! ### The cases of the conditional updates -/

/-- IDLE with nothing offered. -/
theorem State.accept_nil {s : State} (h : s.cmds = []) : s.accept = s := by simp [State.accept, h]

/-- IDLE with a command offered (R95). -/
theorem State.accept_cons {s : State} {c : Command} {cs : List Command} (h : s.cmds = c :: cs) :
    s.accept = ({ s with cmds := cs }).latch c := by simp [State.accept, h]

/-- The host takes the response. -/
theorem State.takeResponse_ready {s : State} (h : s.rspReady = true) :
    s.takeResponse = { s.blockReset with delivered := s.delivered ++ [s.rsp] } := by
  simp [State.takeResponse, h]

/-- The host does not take the response yet. -/
theorem State.takeResponse_held {s : State} (h : s.rspReady = false) : s.takeResponse = s := by
  simp [State.takeResponse, h]

/-- The transport accepts the request. -/
theorem State.transfer_ready {s : State} (h : s.busReqReady = true) :
    s.transfer = { s with reqValid := false } := by simp [State.transfer, h]

/-- The transport does not accept the request yet. -/
theorem State.transfer_held {s : State} (h : s.busReqReady = false) : s.transfer = s := by
  simp [State.transfer, h]

/-- Moving on consumes a given answer. -/
theorem State.consume_cons {s : State} {a : Answer} {as : List Answer} (h : s.answers = a :: as) :
    s.consume = { s with answers := as } := by simp [State.consume, h]

/-- With no given answer left, `answers` stays empty. -/
theorem State.consume_answers_nil {s : State} (h : s.answers = []) : s.consume.answers = [] := by
  simp only [State.consume, h]
  split <;> first | rfl | exact h

/-- An Ok answer to a write stores its bytes (R57). -/
theorem State.applyWrite_of_write {s : State} {reg : Byte} {bytes : List Byte}
    (h : s.request = some (.write reg bytes)) :
    s.applyWrite = { s with chip := s.chip.writeBytes reg.toNat bytes } := by
  simp [State.applyWrite, h]

/-- An Ok answer to a read stores nothing. -/
theorem State.applyWrite_of_read {s : State} {reg : Byte} {n : Nat} (h : s.request = some (.read reg n)) :
    s.applyWrite = s := by simp [State.applyWrite, h]

/-- A block reset twice is a block reset once. -/
@[simp] theorem State.blockReset_blockReset (s : State) : s.blockReset.blockReset = s.blockReset := rfl

/-- Only IDLE is not busy (R26). -/
theorem State.busy_eq_false_iff (s : State) : s.busy = false ↔ s.phase = .idle := by
  simp [State.busy]

end Sys2Proof.Machine
end

