-- ==== Sys2Proof/Laws/Ops.lean ====
section
/-!
SUPPORT. What the shared operations of a meaning can do, each said once: the edge without transactions, a
waiting phase, the reset edge.
-/

namespace Sys2Proof.Machine

/-- In EXEC an operation without transactions responds. -/
theorem compute_exec {s : State} (r : Response) (h : s.phase = .exec) : compute r s = .next (s.respond r) := by
  simp [compute, h]

/-- If an operation without transactions takes a step, it was in EXEC and has responded. -/
theorem compute_next {r : Response} {s t : State} (h : compute r s = .next t) :
    s.phase = .exec ∧ t = s.respond r := by
  unfold compute at h
  split at h <;> first | exact ⟨‹_›, by cases h; rfl⟩ | cases h

/-- A waiting phase whose request has not transferred: the request transfers, or is held. -/
theorem await_pending {k : RegisterBlock → State → State} {s : State} (h : s.reqValid = true) :
    await k s = .next s.transfer := by simp [await, h]

/-- A waiting phase with no answer stays as it is (R232). -/
theorem await_none {k : RegisterBlock → State → State} {s : State} (h : s.reqValid = false)
    (ha : s.answer = none) : await k s = .next s := by simp [await, h, ha]

/-- A waiting phase answered Err ends with BUS_ERROR, the error unchanged (R191). -/
theorem await_err {k : RegisterBlock → State → State} {s : State} {e : BusErr} (h : s.reqValid = false)
    (ha : s.answer = some (.err e)) : await k s = .next (s.consume.respond (.busError e)) := by
  simp [await, h, ha]

/-- A waiting phase answered Ok goes on with the bytes answered. -/
theorem await_ok {k : RegisterBlock → State → State} {s : State} {B : RegisterBlock} (h : s.reqValid = false)
    (ha : s.answer = some (.ok B)) : await k s = .next (k B s.applyWrite.consume) := by
  simp [await, h, ha]

/-- Everything a waiting phase can do: it always takes a step, and it is one of these four. -/
theorem await_cases (k : RegisterBlock → State → State) (s : State) :
    (s.reqValid = true ∧ await k s = .next s.transfer) ∨
    (s.reqValid = false ∧ s.answer = none ∧ await k s = .next s) ∨
    (s.reqValid = false ∧ ∃ e, s.answer = some (.err e) ∧
      await k s = .next (s.consume.respond (.busError e))) ∨
    (s.reqValid = false ∧ ∃ B, s.answer = some (.ok B) ∧ await k s = .next (k B s.applyWrite.consume)) := by
  cases h : s.reqValid with
  | true => exact .inl ⟨rfl, await_pending h⟩
  | false =>
    refine .inr ?_
    rcases ha : s.answer with _ | (B | e)
    · exact .inl ⟨rfl, rfl, await_none h ha⟩
    · exact .inr (.inr ⟨rfl, B, rfl, await_ok h ha⟩)
    · exact .inr (.inl ⟨rfl, e, rfl, await_err h ha⟩)

/-- A given answer of Ok with bytes. -/
theorem State.answer_bytes {s : State} {B : RegisterBlock} {as : List Answer}
    (h : s.answers = .bytes B :: as) : s.answer = some (.ok B) := by simp [State.answer, h]

/-- A given answer of Err. -/
theorem State.answer_err {s : State} {e : BusErr} {as : List Answer} (h : s.answers = .err e :: as) :
    s.answer = some (.err e) := by simp [State.answer, h]

/-- A given answer as StoreBus gives it. -/
theorem State.answer_stored {s : State} {as : List Answer} (h : s.answers = .stored :: as) :
    s.answer = some s.storeAnswer := by simp [State.answer, h]

/-- StoreBus answers when no answer is given (R71). -/
theorem State.answer_storeBus {s : State} (h : s.answers = []) (ht : s.target = .storeBus) :
    s.answer = some s.storeAnswer := by simp [State.answer, h, ht]

/-- FailBus answers when no answer is given (R71). -/
theorem State.answer_failBus {s : State} {e : BusErr} (h : s.answers = []) (ht : s.target = .failBus e) :
    s.answer = some (.err e) := by simp [State.answer, h, ht]

/-- StoreBus never fails (R71). -/
theorem State.storeAnswer_ok (s : State) : ∃ B, s.storeAnswer = .ok B := by
  unfold State.storeAnswer
  split <;> exact ⟨_, rfl⟩

/-- Whether an answer comes, and whether it is Ok, depends on the environment's place alone. -/
theorem State.answer_congr {s u : State} (ha : u.answers = s.answers) (ht : u.target = s.target)
    (hd : u.draw = s.draw) :
    (u.answer = none ↔ s.answer = none) ∧
    ((∃ B, u.answer = some (.ok B)) ↔ ∃ B, s.answer = some (.ok B)) ∧
    ∀ e, u.answer = some (.err e) ↔ s.answer = some (.err e) := by
  obtain ⟨B, hB⟩ := s.storeAnswer_ok
  obtain ⟨C, hC⟩ := u.storeAnswer_ok
  unfold State.answer
  rw [ha, ht, hd, hB, hC]
  rcases s.answers with _ | ⟨_ | _ | _ | _, _⟩
  · cases s.target <;> simp
  all_goals simp

/-- Moving on keeps two environments at the same place together. -/
theorem State.consume_congr {s u : State} (ha : u.answers = s.answers) (ht : u.target = s.target)
    (hd : u.draw = s.draw) :
    u.consume.answers = s.consume.answers ∧ u.consume.target = s.consume.target ∧
      u.consume.draw = s.consume.draw := by
  unfold State.consume
  rw [ha, ht]
  rcases s.answers with _ | ⟨_, _⟩
  · cases ht' : s.target <;> simp [ha, hd, ht, ht']
  · simp [hd]

/-- A reset of an idle block (R220), and the refusal of any other (R41). -/
theorem resetEdge_cases (s : State) :
    (s.phase = .idle ∧ resetEdge s = .next s.blockReset) ∨
    (s.phase ≠ .idle ∧ resetEdge s = .refused .resetWhileBusy) := by
  by_cases h : s.phase = .idle
  · exact .inl ⟨h, by simp [resetEdge, State.busy, h]⟩
  · exact .inr ⟨h, by simp [resetEdge, State.busy, h]⟩

/-- The decoded response by the low-voltage bit (R151, R164). -/
theorem decodedResponse_eq (B : RegisterBlock) :
    decodedResponse B = if lowVoltageBit B then .lowVoltage (blkFields B) else .ok (.dateTime (blkFields B)) := by
  unfold decodedResponse blkDec
  cases lowVoltageBit B <;> rfl

end Sys2Proof.Machine
end

