-- ==== Sys2Proof/Laws/Step.lean ====
section
/-!
SUPPORT. What the step does in each phase, and what a run of several steps is.
-/

namespace Sys2Proof.Machine

/-- The step with `rst` asserted. -/
theorem step_reset {s : State} (h : s.rst = true) : step s = resetEdge s := by simp [step, h]

/-- The step from IDLE. -/
theorem step_idle {s : State} (h : s.rst = false) (hp : s.phase = .idle) : step s = .next s.accept := by
  simp [step, h, hp]

/-- The step from RESP. -/
theorem step_resp {s : State} (h : s.rst = false) (hp : s.phase = .resp) : step s = .next s.takeResponse := by
  simp [step, h, hp]

/-- The step while an operation runs. -/
theorem step_running {s : State} (h : s.rst = false) (hi : s.phase ≠ .idle) (hr : s.phase ≠ .resp) :
    step s = exec s.instr s := by
  cases hp : s.phase <;> simp_all [step]

/-- A run of one more step, when the first step is known. -/
theorem run_succ {s t : State} {n : Nat} (h : step s = .next t) :
    Host.Core.run Sys2Proof.core (n + 1) s = Host.Core.run Sys2Proof.core n t := by
  have h' : Sys2Proof.core.step s = .next t := h
  simp [Host.Core.run, h']

/-- A run of no steps. -/
@[simp] theorem run_zero (s : State) : Host.Core.run Sys2Proof.core 0 s = .next s := rfl

end Sys2Proof.Machine
end

