-- ==== Sys2Proof/Laws/Moves.lean ====
section
/-!
SUPPORT. Everything a step can do, said once: `step_move` lists the ways a step answers a next state, each with
its guard, so that an invariant is a case analysis over `Move` and no proof takes the step apart again.
-/

namespace Sys2Proof.Machine

/-- The response an operation without transactions gives, and that of a WRITE with an invalid DateTime. -/
def Responds (i : Instr) (r : Response) : Prop :=
  match i with
  | .bcdenc v => (∃ b, bcdEnc v = some b ∧ r = .ok (.byte b)) ∨ (bcdEnc v = none ∧ r = .invalidValue)
  | .bcddec b => r = .ok (.byte (bcdDec b))
  | .renc t   => (∃ B, blkEnc t = some B ∧ r = .ok (.block B)) ∨ (blkEnc t = none ∧ r = .invalidValue)
  | .rdec B   => r = decodedResponse B
  | .init     => False
  | .read     => False
  | .write t  => blkEnc t = none ∧ r = .invalidValue
  | .close    => r = .ok .nothing

/-- The transaction an operation issues from EXEC: the waiting phase it enters and what `blk` then holds. -/
def Issues (s : State) (p : Phase) (b : RegisterBlock) : Prop :=
  match s.instr with
  | .init     => p = .initW1 ∧ b = s.blk
  | .read     => p = .rdWait ∧ b = s.blk
  | .write t  => p = .wrWait ∧ blkEnc t = some b
  | .bcdenc _ => False
  | .bcddec _ => False
  | .renc _   => False
  | .rdec _   => False
  | .close    => False

/-- The operation waits in a phase of its own. -/
def Waits (i : Instr) (p : Phase) : Prop :=
  (i = .init ∧ (p = .initW1 ∨ p = .initW2)) ∨ (i = .read ∧ p = .rdWait) ∨ ((∃ t, i = .write t) ∧ p = .wrWait)

/-- The ways a step answers a next state. -/
inductive Move (s : State) : State → Prop where
  | reset (hr : s.rst = true) (hp : s.phase = .idle) : Move s s.blockReset
  | accept (hr : s.rst = false) (hp : s.phase = .idle) : Move s s.accept
  | take (hr : s.rst = false) (hp : s.phase = .resp) : Move s s.takeResponse
  | respond (r : Response) (hr : s.rst = false) (hp : s.phase = .exec) (h : Responds s.instr r) :
      Move s (s.respond r)
  | issue (p : Phase) (b : RegisterBlock) (hr : s.rst = false) (hp : s.phase = .exec) (h : Issues s p b) :
      Move s (({ s with blk := b }).issue p)
  | transfer (hr : s.rst = false) (hw : Waits s.instr s.phase) (hq : s.reqValid = true) : Move s s.transfer
  | hang (hr : s.rst = false) (hw : Waits s.instr s.phase) (hq : s.reqValid = false)
      (ha : s.answer = none) : Move s s
  | fail (e : BusErr) (hr : s.rst = false) (hw : Waits s.instr s.phase) (hq : s.reqValid = false)
      (ha : s.answer = some (.err e)) : Move s (s.consume.respond (.busError e))
  | second (B : RegisterBlock) (hr : s.rst = false) (hi : s.instr = .init) (hp : s.phase = .initW1)
      (hq : s.reqValid = false) (ha : s.answer = some (.ok B)) : Move s (s.applyWrite.consume.issue .initW2)
  | done (B : RegisterBlock) (hr : s.rst = false)
      (hw : (s.instr = .init ∧ s.phase = .initW2) ∨ ((∃ t, s.instr = .write t) ∧ s.phase = .wrWait))
      (hq : s.reqValid = false) (ha : s.answer = some (.ok B)) :
      Move s (s.applyWrite.consume.respond (.ok .nothing))
  | decoded (B : RegisterBlock) (hr : s.rst = false) (hi : s.instr = .read) (hp : s.phase = .rdWait)
      (hq : s.reqValid = false) (ha : s.answer = some (.ok B)) :
      Move s (({ s.applyWrite.consume with blk := B }).respond (decodedResponse B))

/-- A waiting phase moves by transfer, by hanging, by failing, or as its continuation says. -/
theorem await_move {k : RegisterBlock → State → State} {s t : State} (hr : s.rst = false)
    (hw : Waits s.instr s.phase)
    (hk : ∀ B, s.reqValid = false → s.answer = some (.ok B) → Move s (k B s.applyWrite.consume))
    (h : await k s = .next t) : Move s t := by
  rcases await_cases k s with ⟨hq, e⟩ | ⟨hq, ha, e⟩ | ⟨hq, err, ha, e⟩ | ⟨hq, B, ha, e⟩ <;>
    rw [e] at h <;> cases h
  · exact .transfer hr hw hq
  · exact .hang hr hw hq ha
  · exact .fail err hr hw hq ha
  · exact hk B hq ha

/-- An operation without transactions moves by responding. -/
theorem compute_move {r : Response} {s t : State} (hr : s.rst = false) (hres : Responds s.instr r)
    (h : compute r s = .next t) : Move s t := by
  obtain ⟨hp, rfl⟩ := compute_next h
  exact .respond r hr hp hres

/-- Every next state of the operation in flight is a move. -/
theorem exec_move {s t : State} (hr : s.rst = false) (h : exec s.instr s = .next t) : Move s t := by
  cases hi : s.instr with
  | bcdenc v =>
    rw [hi] at h
    simp only [exec, execBcdenc] at h
    split at h
    · exact compute_move hr (by rw [hi]; exact .inl ⟨_, ‹_›, rfl⟩) h
    · exact compute_move hr (by rw [hi]; exact .inr ⟨‹_›, rfl⟩) h
  | bcddec b => rw [hi] at h; exact compute_move hr (by rw [hi]; exact rfl) h
  | renc d =>
    rw [hi] at h
    simp only [exec, execRenc] at h
    split at h
    · exact compute_move hr (by rw [hi]; exact .inl ⟨_, ‹_›, rfl⟩) h
    · exact compute_move hr (by rw [hi]; exact .inr ⟨‹_›, rfl⟩) h
  | rdec B => rw [hi] at h; exact compute_move hr (by rw [hi]; exact rfl) h
  | close => rw [hi] at h; exact compute_move hr (by rw [hi]; exact rfl) h
  | init =>
    rw [hi] at h
    simp only [exec, execInit] at h
    split at h
    · next hp =>
      cases h
      exact .issue .initW1 s.blk hr hp (by simp [Issues, hi])
    · next hp =>
      exact await_move hr (.inl ⟨hi, .inl hp⟩) (fun B hq ha => .second B hr hi hp hq ha) h
    · next hp =>
      exact await_move hr (.inl ⟨hi, .inr hp⟩) (fun B hq ha => .done B hr (.inl ⟨hi, hp⟩) hq ha) h
    all_goals cases h
  | read =>
    rw [hi] at h
    simp only [exec, execRead] at h
    split at h
    · next hp =>
      cases h
      exact .issue .rdWait s.blk hr hp (by simp [Issues, hi])
    · next hp =>
      exact await_move hr (.inr (.inl ⟨hi, hp⟩)) (fun B hq ha => .decoded B hr hi hp hq ha) h
    all_goals cases h
  | write d =>
    rw [hi] at h
    simp only [exec, execWrite] at h
    split at h
    · next hp =>
      split at h
      · cases h
        exact .issue .wrWait _ hr hp (by simp [Issues, hi]; assumption)
      · cases h
        exact .respond _ hr hp (by rw [hi]; exact ⟨‹_›, rfl⟩)
    · next hp =>
      exact await_move hr (.inr (.inr ⟨⟨d, hi⟩, hp⟩))
        (fun B hq ha => .done B hr (.inr ⟨⟨d, hi⟩, hp⟩) hq ha) h
    all_goals cases h

/-- Everything a step can do. -/
theorem step_move {s t : State} (h : step s = .next t) : Move s t := by
  cases hr : s.rst with
  | true =>
    rw [step_reset hr] at h
    rcases resetEdge_cases s with ⟨hp, e⟩ | ⟨_, e⟩ <;> rw [e] at h <;> cases h
    exact .reset hr hp
  | false =>
    by_cases hp : s.phase = .idle
    · rw [step_idle hr hp] at h
      cases h
      exact .accept hr hp
    · by_cases hp' : s.phase = .resp
      · rw [step_resp hr hp'] at h
        cases h
        exact .take hr hp'
      · rw [step_running hr hp hp'] at h
        exact exec_move hr h

/-- In a waiting phase of its own the operation waits for its answer. -/
theorem exec_waits {s : State} (hw : Waits s.instr s.phase) :
    exec s.instr s = await
      (match s.phase with
        | .initW1 => fun _ u => u.issue .initW2
        | .rdWait => fun B u => ({ u with blk := B }).respond (decodedResponse B)
        | _       => fun _ u => u.respond (.ok .nothing)) s := by
  rcases hw with ⟨hi, h | h⟩ | ⟨hi, h⟩ | ⟨⟨d, hi⟩, h⟩ <;>
    simp only [hi, h, exec, execInit, execRead, execWrite]

/-- A waiting phase is neither IDLE nor RESP, and its transaction is outstanding. -/
theorem Waits.running {s : State} (hw : Waits s.instr s.phase) :
    s.phase ≠ .idle ∧ s.phase ≠ .resp ∧ s.request.isSome = true := by
  rcases hw with ⟨_, h | h⟩ | ⟨_, h⟩ | ⟨_, h⟩ <;> simp [State.request, Phase.request, h]

/-- In EXEC an operation without transactions gives its response. -/
theorem exec_responds {s : State} {r : Response} (hp : s.phase = .exec) (h : Responds s.instr r) :
    exec s.instr s = .next (s.respond r) := by
  cases hi : s.instr with
  | bcdenc v =>
    rw [hi] at h
    rcases h with ⟨b, hb, rfl⟩ | ⟨hb, rfl⟩ <;> simp only [exec, execBcdenc, hb, compute_exec _ hp]
  | bcddec b => rw [hi] at h; cases h; exact compute_exec _ hp
  | renc t =>
    rw [hi] at h
    rcases h with ⟨B, hb, rfl⟩ | ⟨hb, rfl⟩ <;> simp only [exec, execRenc, hb, compute_exec _ hp]
  | rdec B => rw [hi] at h; cases h; exact compute_exec _ hp
  | init => rw [hi] at h; exact h.elim
  | read => rw [hi] at h; exact h.elim
  | write t => rw [hi] at h; obtain ⟨hb, rfl⟩ := h; simp only [exec, execWrite, hp, hb]
  | close => rw [hi] at h; cases h; exact compute_exec _ hp

/-- In EXEC an operation with a transaction issues it. -/
theorem exec_issues {s : State} {p : Phase} {b : RegisterBlock} (hp : s.phase = .exec) (h : Issues s p b) :
    exec s.instr s = .next (({ s with blk := b }).issue p) := by
  unfold Issues at h
  split at h
  · next hi => obtain ⟨rfl, rfl⟩ := h; simp only [hi, exec, execInit]; rw [hp]; rfl
  · next hi => obtain ⟨rfl, rfl⟩ := h; simp only [hi, exec, execRead]; rw [hp]; rfl
  · next d hi => obtain ⟨rfl, hb⟩ := h; rw [hi]; simp only [exec, execWrite, hp, hb]
  all_goals exact h.elim

/-- Every move is what the step does. -/
theorem move_step {s t : State} (h : Move s t) : step s = .next t := by
  cases h with
  | reset hr hp => rw [step_reset hr]; simp [resetEdge, State.busy, hp]
  | accept hr hp => exact step_idle hr hp
  | take hr hp => exact step_resp hr hp
  | respond r hr hp h => rw [step_running hr (by simp [hp]) (by simp [hp]), exec_responds hp h]
  | issue p b hr hp h => rw [step_running hr (by simp [hp]) (by simp [hp]), exec_issues hp h]
  | transfer hr hw hq => rw [step_running hr hw.running.1 hw.running.2.1, exec_waits hw, await_pending hq]
  | hang hr hw hq ha => rw [step_running hr hw.running.1 hw.running.2.1, exec_waits hw, await_none hq ha]
  | fail e hr hw hq ha => rw [step_running hr hw.running.1 hw.running.2.1, exec_waits hw, await_err hq ha]
  | second B hr hi hp hq ha =>
    have hw : Waits s.instr s.phase := .inl ⟨hi, .inl hp⟩
    rw [step_running hr hw.running.1 hw.running.2.1, exec_waits hw, await_ok hq ha, hp]
  | done B hr hw hq ha =>
    rcases hw with ⟨hi, hp⟩ | ⟨hi, hp⟩
    · have hw : Waits s.instr s.phase := .inl ⟨hi, .inr hp⟩
      rw [step_running hr hw.running.1 hw.running.2.1, exec_waits hw, await_ok hq ha, hp]
    · have hw : Waits s.instr s.phase := .inr (.inr ⟨hi, hp⟩)
      rw [step_running hr hw.running.1 hw.running.2.1, exec_waits hw, await_ok hq ha, hp]
  | decoded B hr hi hp hq ha =>
    have hw : Waits s.instr s.phase := .inr (.inl ⟨hi, hp⟩)
    rw [step_running hr hw.running.1 hw.running.2.1, exec_waits hw, await_ok hq ha, hp]

/-- The step answers a next state exactly by a move. -/
theorem step_iff_move {s t : State} : step s = .next t ↔ Move s t := ⟨step_move, move_step⟩

end Sys2Proof.Machine
end

