-- ==== Sys2Proof/Laws/PerInstr.lean ====
section
/-!
SUPPORT. The family TableWord: the encoder's word of an operation matches that operation's row of
spec/opcode_table.json, `cmd & mask = match` with the mask and the code of R113.
-/

namespace Sys2Proof.Laws.TableWord

/-- `mask`, the same in every row (R113). -/
def mask : Command := 0x70000000000000000

/-- `match` of the row of an operation (R113). -/
def rowMatch : Instr → Command
  | .bcdenc _ => 0x00000000000000000
  | .bcddec _ => 0x10000000000000000
  | .renc _   => 0x20000000000000000
  | .rdec _   => 0x30000000000000000
  | .init     => 0x40000000000000000
  | .read     => 0x50000000000000000
  | .write _  => 0x60000000000000000
  | .close    => 0x70000000000000000

/-- The encoder's word is in the operation's row. -/
def Statement (i : Instr) : Prop := encode i &&& mask = rowMatch i

/-- Masking a command leaves its code over a payload of zeros. -/
theorem append_and_mask (op : BitVec 3) (p : Payload) : (op ++ p) &&& mask = op ++ (0 : Payload) := by
  have hm : mask = (BitVec.allOnes 3) ++ (0 : Payload) := by decide
  rw [hm]
  refine BitVec.and_append.trans ?_
  rw [BitVec.and_allOnes]
  exact congrArg (op ++ ·) (BitVec.and_zero (x := p))

theorem bcdenc (v : Byte) : Statement (.bcdenc v) :=
  (append_and_mask _ _).trans (by simp only [Instr.code, rowMatch]; decide)
theorem bcddec (b : Byte) : Statement (.bcddec b) :=
  (append_and_mask _ _).trans (by simp only [Instr.code, rowMatch]; decide)
theorem renc (t : DateTime) : Statement (.renc t) :=
  (append_and_mask _ _).trans (by simp only [Instr.code, rowMatch]; decide)
theorem rdec (B : RegisterBlock) : Statement (.rdec B) :=
  (append_and_mask _ _).trans (by simp only [Instr.code, rowMatch]; decide)
theorem init : Statement .init :=
  (append_and_mask _ _).trans (by simp only [Instr.code, rowMatch]; decide)
theorem read : Statement .read :=
  (append_and_mask _ _).trans (by simp only [Instr.code, rowMatch]; decide)
theorem write (t : DateTime) : Statement (.write t) :=
  (append_and_mask _ _).trans (by simp only [Instr.code, rowMatch]; decide)
theorem close : Statement .close :=
  (append_and_mask _ _).trans (by simp only [Instr.code, rowMatch]; decide)

end Sys2Proof.Laws.TableWord
end

