-- ==== Sys2Proof/Tests/Slice0.lean ====
section
/-!
SUPPORT. Named tests. Every expected value is taken from spec/95_test_vectors.md or from the corner cases of the
rules, never from the model. Then one witness per statement that has hypotheses: a concrete state and operands
that meet all of them together, at boundary values where a clause has a range.
-/

namespace Sys2Proof.Tests

open Sys2Proof Sys2Proof.Machine

/-! ### Small states -/

/-- Vector S1. -/
def s1Time : DateTime := ⟨35, 15, 23, 27, 3, 11, 2002⟩

/-- Vector S1, the register bytes. -/
def s1Block : RegisterBlock := ⟨0x35, 0x15, 0x23, 0x27, 0x03, 0x91, 0x02⟩

/-- Vector S4: S1 with the low-voltage bit. -/
def s4Block : RegisterBlock := ⟨0xB5, 0x15, 0x23, 0x27, 0x03, 0x91, 0x02⟩

/-- Every field at its maximum (95_test_vectors.md 2.3). -/
def maxTime : DateTime := ⟨59, 59, 23, 31, 6, 12, 2099⟩

/-- Seconds out of range (95_test_vectors.md S5). -/
def badTime : DateTime := ⟨60, 0, 0, 1, 0, 1, 2000⟩

/-- A block running an operation, at a phase. -/
def running (i : Instr) (p : Phase) : State := { State.reset.latch (encode i) with phase := p }

/-- The same with the answers to come. -/
def waiting (i : Instr) (p : Phase) (as : List Answer) : State := { running i p with answers := as }

/-- A WRITE of S1 that waits. -/
def writing (a : Answer) : State := { waiting (.write s1Time) .wrWait [a] with blk := s1Block }

/-- A block with a response ready. -/
def ended (r : Response) : State := { running .read .resp with rsp := r }

/-- An idle block that is offered commands. -/
def offered (cs : List Command) : State := { State.reset with cmds := cs }

/-! ### Ill-formed lines are refused, one per check -/

theorem test_bcdenc_line : (Line.bcdenc 256).wellFormed = false ∧ (Line.bcdenc 255).wellFormed = true := by decide

theorem test_bcddec_line : (Line.bcddec 256).wellFormed = false ∧ (Line.bcddec 255).wellFormed = true := by decide

theorem test_renc_line :
    (Line.renc ⟨256, 0, 0, 1, 0, 1, 2000⟩).wellFormed = false ∧
    (Line.renc ⟨0, 256, 0, 1, 0, 1, 2000⟩).wellFormed = false ∧
    (Line.renc ⟨0, 0, 256, 1, 0, 1, 2000⟩).wellFormed = false ∧
    (Line.renc ⟨0, 0, 0, 256, 0, 1, 2000⟩).wellFormed = false ∧
    (Line.renc ⟨0, 0, 0, 1, 256, 1, 2000⟩).wellFormed = false ∧
    (Line.renc ⟨0, 0, 0, 1, 0, 256, 2000⟩).wellFormed = false ∧
    (Line.renc ⟨0, 0, 0, 1, 0, 1, 65536⟩).wellFormed = false ∧
    (Line.renc ⟨255, 255, 255, 255, 255, 255, 65535⟩).wellFormed = true := by decide

theorem test_write_line :
    (Line.write ⟨0, 0, 0, 1, 0, 1, 65536⟩).wellFormed = false ∧
    (Line.write ⟨60, 0, 0, 1, 0, 1, 2000⟩).wellFormed = true := by decide

theorem test_rdec_line :
    (Line.rdec [0x35, 0x15, 0x23, 0x27, 0x03, 0x91]).wellFormed = false ∧
    (Line.rdec [0x35, 0x15, 0x23, 0x27, 0x03, 0x91, 0x02, 0]).wellFormed = false ∧
    (Line.rdec [0x35, 0x15, 0x23, 0x27, 0x03, 0x91, 256]).wellFormed = false ∧
    (Line.rdec [0x35, 0x15, 0x23, 0x27, 0x03, 0x91, 0x02]).assemble = some (.rdec s1Block) := by decide

/-! ### Decoding: words written out from R92, R93, R102, R104, field by field -/

/-- `0:000000000000003B`, BCDENC 59. -/
theorem test_decode_bcdenc : decode (0b000#3 ++ 0#56 ++ 0b00111011#8) = .bcdenc 59 := by decide

/-- `1:00000000000000A0`, BCDDEC 0xA0. -/
theorem test_decode_bcddec : decode (0b001#3 ++ 0#56 ++ 0b10100000#8) = .bcddec 0xA0 := by decide

/-- `2:08330C061F173B3B`: year, month, weekday, day, hour, minute, second from the top down. -/
theorem test_decode_renc :
    decode (0b010#3 ++ 0b0000100000110011#16 ++ 0b00001100#8 ++ 0b00000110#8 ++ 0b00011111#8 ++ 0b00010111#8
      ++ 0b00111011#8 ++ 0b00111011#8) = .renc maxTime := by decide

/-- `3:00061200242315A0`: an ignored byte, then B[6] down to B[0]. -/
theorem test_decode_rdec :
    decode (0b011#3 ++ 0b00000000#8 ++ 0b00000110#8 ++ 0b00010010#8 ++ 0b00000000#8 ++ 0b00100100#8
      ++ 0b00100011#8 ++ 0b00010101#8 ++ 0b10100000#8) =
        .rdec ⟨0xA0, 0x15, 0x23, 0x24, 0x00, 0x12, 0x06⟩ := by decide

theorem test_decode_init : decode (0b100#3 ++ 0#64) = .init := by decide

theorem test_decode_read : decode (0b101#3 ++ 0#64) = .read := by decide

/-- `6:07CF19072D2D5555` (program P4, step 5). -/
theorem test_decode_write :
    decode (0b110#3 ++ 0b0000011111001111#16 ++ 0b00011001#8 ++ 0b00000111#8 ++ 0b00101101#8 ++ 0b00101101#8
      ++ 0b01010101#8 ++ 0b01010101#8) = .write ⟨85, 85, 45, 45, 7, 25, 1999⟩ := by decide

theorem test_decode_close : decode (0b111#3 ++ 0#64) = .close := by decide

/-- The encoder on vectors: `2:076C010001000000`, `3:0002910327231535`, `6:07D60C0018170F14`. -/
theorem test_encode :
    encode (.renc ⟨0, 0, 0, 1, 0, 1, 1900⟩) = 0x2076C010001000000 ∧
    encode (.rdec s1Block) = 0x30002910327231535 ∧
    encode (.write ⟨20, 15, 23, 24, 0, 12, 2006⟩) = 0x607D60C0018170F14 := by decide

/-- The table's `match` words, and the two rejections of the table decoder. -/
theorem test_decodeTableWord :
    decodeTableWord 67 0x50000000000000000 = some .read ∧ decodeTableWord 72 0x7FFFFFFFFFFFFFFFF = some .close ∧
    decodeBits 72 0x80000000000000000 = .error .strayBits ∧ decodeBits 73 0 = .error .tooLong := by
  refine ⟨by decide, by decide, rfl, rfl⟩

/-- A placed word is what the very next step runs (vector `0:DEADBEEF0000002A`). -/
theorem test_withFetchWord :
    ∃ t, step (State.reset.withFetchWord 67 0xDEADBEEF0000002A) = .next t ∧ t.rsp = .ok (.byte 0x42) :=
  ⟨_, rfl, by decide⟩

/-! ### One step per instruction (95_test_vectors.md part 2) -/

theorem test_bcdenc_99 :
    ∃ t, exec (.bcdenc 99) (running (.bcdenc 99) .exec) = .next t ∧ t.rsp = .ok (.byte 0x99) := ⟨_, rfl, by decide⟩

theorem test_bcdenc_100 :
    ∃ t, exec (.bcdenc 100) (running (.bcdenc 100) .exec) = .next t ∧ t.rsp = .invalidValue := ⟨_, rfl, by decide⟩

theorem test_bcddec_malformed :
    ∃ t, exec (.bcddec 0x9A) (running (.bcddec 0x9A) .exec) = .next t ∧ t.rsp = .ok (.byte 100) :=
  ⟨_, rfl, by decide⟩

theorem test_bcddec_largest :
    ∃ t, exec (.bcddec 0xFF) (running (.bcddec 0xFF) .exec) = .next t ∧ t.rsp = .ok (.byte 165) :=
  ⟨_, rfl, by decide⟩

theorem test_renc_max :
    ∃ t, exec (.renc maxTime) (running (.renc maxTime) .exec) = .next t ∧
      t.rsp = .ok (.block ⟨0x59, 0x59, 0x23, 0x31, 0x06, 0x92, 0x99⟩) := ⟨_, rfl, by decide⟩

theorem test_renc_1899 :
    ∃ t, exec (.renc ⟨0, 0, 0, 1, 0, 1, 1899⟩) (running .close .exec) = .next t ∧ t.rsp = .invalidValue :=
  ⟨_, rfl, by decide⟩

theorem test_rdec_reserved_bits :
    ∃ t, exec (.rdec ⟨0x80, 0x80, 0xC0, 0xC1, 0xF8, 0x61, 0x00⟩) (running .close .exec) = .next t ∧
      t.rsp = .lowVoltage ⟨0, 0, 0, 1, 0, 1, 1900⟩ := ⟨_, rfl, by decide⟩

theorem test_rdec_malformed :
    ∃ t, exec (.rdec ⟨0x5A, 0x0A, 0x1A, 0x0F, 0x07, 0x1F, 0xA0⟩) (running .close .exec) = .next t ∧
      t.rsp = .ok (.dateTime ⟨60, 10, 20, 15, 7, 25, 2000⟩) := ⟨_, rfl, by decide⟩

theorem test_init_issues_t1 :
    ∃ t, exec .init (running .init .exec) = .next t ∧ t.phase = .initW1 ∧ t.busLog = [.write 0x00 [0x00]] :=
  ⟨_, rfl, by decide⟩

/-- T2 fails: half done (95_test_vectors.md 2.5, fourth row). -/
theorem test_init_half_done :
    ∃ t, exec .init { waiting .init .initW2 [.err 0x01] with chip := [(0, 0x00), (1, 0x1F)] } = .next t ∧
      t.rsp = .busError 0x01 ∧ t.chip = [(0, 0x00), (1, 0x1F)] := ⟨_, rfl, rfl, by decide⟩

theorem test_read_all_ones :
    ∃ t, exec .read (waiting .read .rdWait [.bytes ⟨0xFF, 0xFF, 0xFF, 0xFF, 0xFF, 0xFF, 0xFF⟩]) = .next t ∧
      t.rsp = .lowVoltage ⟨85, 85, 45, 45, 7, 25, 2165⟩ := ⟨_, rfl, by decide⟩

theorem test_read_store_bus :
    ∃ t, exec .read { waiting .read .rdWait [.stored] with
        chip := [(2, 0x35), (3, 0x15), (4, 0x23), (5, 0x27), (6, 0x03), (7, 0x91), (8, 0x02)] } = .next t ∧
      t.rsp = .ok (.dateTime s1Time) := ⟨_, rfl, by decide⟩

theorem test_write_stores :
    ∃ t, exec (.write s1Time) { writing .stored with chip := [(0, 0xA5), (8, 0xFF), (9, 0x77)] } = .next t ∧
      t.chip = [(0, 0xA5), (2, 0x35), (3, 0x15), (4, 0x23), (5, 0x27), (6, 0x03), (7, 0x91), (8, 0x02), (9, 0x77)] :=
  ⟨_, rfl, by decide⟩

/-- A dead bus is not noticed (95_test_vectors.md S5, fourth row). -/
theorem test_write_invalid :
    ∃ t, exec (.write badTime) { running (.write badTime) .exec with target := .failBus 0x07 } = .next t ∧
      t.rsp = .invalidValue ∧ t.busLog = [] := ⟨_, rfl, by decide⟩

theorem test_close :
    ∃ t, exec .close (running .close .exec) = .next t ∧ t.rsp = .ok .nothing ∧ t.busLog = [] :=
  ⟨_, rfl, by decide⟩

/-- `rsp_data` of RENC S1 below its ignored byte: `02910327231535`. -/
theorem test_rsp_data : s1Block.toPacked = 0x02910327231535 ∧ s1Time.toPayload = 0x07D20B031B170F23 := by decide

/-! ### Witnesses: for each statement with hypotheses, states and operands that meet them together -/

theorem consistent_waiting_read (as : List Answer) : (waiting .read .rdWait as).Consistent where
  request_pending h := absurd h Bool.false_ne_true
  init_first h := absurd h (by show Phase.rdWait ≠ _; decide)
  init_second h := absurd h (by show Phase.rdWait ≠ _; decide)
  read_wait _ := by show decode (encode .read) = _; decide
  write_wait h := absurd h (by show Phase.rdWait ≠ _; decide)
  response h := absurd h (by show Phase.rdWait ≠ _; decide)

theorem consistent_waiting_init (as : List Answer) : (waiting .init .initW1 as).Consistent where
  request_pending h := absurd h Bool.false_ne_true
  init_first _ := by show decode (encode .init) = _; decide
  init_second h := absurd h (by show Phase.initW1 ≠ _; decide)
  read_wait h := absurd h (by show Phase.initW1 ≠ _; decide)
  write_wait h := absurd h (by show Phase.initW1 ≠ _; decide)
  response h := absurd h (by show Phase.initW1 ≠ _; decide)

theorem consistent_writing (a : Answer) : (writing a).Consistent where
  request_pending h := absurd h Bool.false_ne_true
  init_first h := absurd h (by show Phase.wrWait ≠ _; decide)
  init_second h := absurd h (by show Phase.wrWait ≠ _; decide)
  read_wait h := absurd h (by show Phase.wrWait ≠ _; decide)
  write_wait _ := ⟨s1Time, by show decode (encode (.write s1Time)) = _; decide,
    by show blkEnc s1Time = some s1Block; decide⟩
  response h := absurd h (by show Phase.wrWait ≠ _; decide)

theorem consistent_idle (r : Bool) : ({ State.reset with rst := r } : State).Consistent where
  request_pending h := absurd h Bool.false_ne_true
  init_first h := absurd h (by show Phase.idle ≠ _; decide)
  init_second h := absurd h (by show Phase.idle ≠ _; decide)
  read_wait h := absurd h (by show Phase.idle ≠ _; decide)
  write_wait h := absurd h (by show Phase.idle ≠ _; decide)
  response h := absurd h (by show Phase.idle ≠ _; decide)

theorem witness_IgnoredBitsSelectSameOperation :
    ((0xDEADBEEF0000002A : Payload).extractLsb' 0 8 = (0x2A : Payload).extractLsb' 0 8 ∧
      (0xDEADBEEF0000002A : Payload) ≠ 0x2A) ∧
    ((0xEE02910327231535 : Payload).extractLsb' 0 56 = (0x0002910327231535 : Payload).extractLsb' 0 56 ∧
      (0xEE02910327231535 : Payload) ≠ 0x0002910327231535) := by decide

/-- A line that assembles, at the largest numerals, and lines that do not. -/
theorem witness_LineAssemblesToItsOperation :
    (Line.write ⟨255, 255, 255, 255, 255, 255, 65535⟩).assemble =
      some (.write ⟨255, 255, 255, 255, 255, 255, 65535⟩) ∧
    (Line.bcdenc 256).wellFormed = false ∧ (Line.rdec []).wellFormed = false ∧
    (Line.renc ⟨0, 0, 0, 0, 0, 0, 65536⟩).wellFormed = false := by decide

theorem witness_StepRunsDecodedOperation :
    ((running .read .exec).rst = false ∧ (running .read .exec).phase ≠ .idle ∧
      (running .read .exec).phase ≠ .resp) ∧
    (State.reset.rst = false ∧ State.reset.phase = .idle) ∧
    ((ended .invalidValue).rst = false ∧ (ended .invalidValue).phase = .resp) := by decide

theorem witness_OneResponsePerCommand :
    ((offered [encode .read]).rst = false ∧ (offered [encode .read]).phase = .idle ∧
      (offered [encode .read]).cmds = [encode .read]) ∧
    ∃ t, step (ended .invalidValue) = .next t ∧ t.delivered = [.invalidValue] :=
  ⟨by decide, _, rfl, by decide⟩

theorem witness_BusyBlockKeepsCommandsWaiting :
    (ended .invalidValue).phase ≠ .idle ∧ ∃ t, step (ended .invalidValue) = .next t ∧ t.phase = .idle :=
  ⟨by decide, _, rfl, by decide⟩

theorem witness_PhaseMovesAlongListedEdges :
    ∃ t, step (running .init .exec) = .next t ∧ t.phase = .initW1 := ⟨_, rfl, by decide⟩

theorem witness_ConsistentStateTakesAStep :
    ((waiting .read .rdWait []).Consistent ∧ (waiting .read .rdWait []).rst = false) ∧
    (({ State.reset with rst := true } : State).Consistent ∧
      ({ State.reset with rst := true } : State).phase = .idle) :=
  ⟨⟨consistent_waiting_read [], rfl⟩, consistent_idle true, rfl⟩

theorem witness_StepKeepsConsistent :
    (writing .stored).Consistent ∧ ∃ t, step (writing .stored) = .next t ∧ t.phase = .resp :=
  ⟨consistent_writing _, _, rfl, by decide⟩

theorem witness_OnlyListedTransactions :
    State.LegalLog { running .read .exec with busLog := [t1] } ∧
    ∃ t, step { running .read .exec with busLog := [t1] } = .next t ∧ t.busLog = [t1, t3] :=
  ⟨fun r hr => .inl (List.mem_singleton.mp hr), _, rfl, by decide⟩

/-- INIT in five steps, with both answers Ok and with T1 failing; READ; WRITE valid and invalid; CLOSE. -/
theorem witness_TransactionsPerOperation :
    (∃ t, Host.Core.run Sys2Proof.core 5 (waiting .init .exec [.stored, .stored]) = .next t ∧
      t.phase = .resp ∧ t.delivered = [] ∧ t.busLog = [t1, t2]) ∧
    (∃ t, Host.Core.run Sys2Proof.core 3 (waiting .init .exec [.err 0]) = .next t ∧
      t.phase = .resp ∧ t.delivered = [] ∧ t.busLog = [t1]) ∧
    (∃ t, Host.Core.run Sys2Proof.core 3 (waiting .read .exec [.bytes s1Block]) = .next t ∧
      t.phase = .resp ∧ t.delivered = [] ∧ t.busLog = [t3]) ∧
    (∃ t, Host.Core.run Sys2Proof.core 3 (waiting (.write s1Time) .exec [.stored]) = .next t ∧
      t.phase = .resp ∧ t.delivered = [] ∧ t.busLog = [t4 s1Block]) ∧
    (∃ t, Host.Core.run Sys2Proof.core 1 (running (.write badTime) .exec) = .next t ∧
      t.phase = .resp ∧ t.delivered = [] ∧ t.busLog = []) ∧
    (∃ t, Host.Core.run Sys2Proof.core 1 (running .close .exec) = .next t ∧
      t.phase = .resp ∧ t.delivered = [] ∧ t.busLog = []) :=
  ⟨⟨_, rfl, by decide⟩, ⟨_, rfl, by decide⟩, ⟨_, rfl, by decide⟩, ⟨_, rfl, by decide⟩, ⟨_, rfl, by decide⟩,
    ⟨_, rfl, by decide⟩⟩

theorem witness_IssueOnlyOnEnteringAWait :
    (∃ t, step (running .read .exec) = .next t ∧ t.busLog = [t3]) ∧
    ((waiting .init .initW1 [.stored]).outstanding = true ∧
      ∃ t, step (waiting .init .initW1 [.stored]) = .next t ∧ t.busLog = [t2]) :=
  ⟨⟨_, rfl, by decide⟩, by decide, _, rfl, by decide⟩

theorem witness_StepKeepsMemoryCanonical :
    State.chip { writing .stored with chip := [(0, 0xA5), (255, 1)] } = [(0, 0xA5), (255, 1)] ∧
    Memory.wf [(0, 0xA5), (255, 1)] = true ∧
    ∃ t, step { writing .stored with chip := [(0, 0xA5), (255, 1)] } = .next t ∧ t.chip.length = 9 :=
  ⟨rfl, by decide, _, rfl, by decide⟩

theorem witness_ResponsesFollowTheTable :
    (waiting .read .rdWait [.bytes s4Block]).Consistent ∧ (waiting .read .rdWait [.bytes s4Block]).phase ≠ .resp ∧
    ∃ t, step (waiting .read .rdWait [.bytes s4Block]) = .next t ∧ t.phase = .resp ∧
      t.rsp = .lowVoltage s1Time :=
  ⟨consistent_waiting_read _, by decide, _, rfl, by decide⟩

/-- The other status of a READ. -/
theorem witness_ResponsesFollowTheTable_ok :
    (waiting .read .rdWait [.bytes s1Block]).Consistent ∧ (waiting .read .rdWait [.bytes s1Block]).instr = .read ∧
    ∃ t, step (waiting .read .rdWait [.bytes s1Block]) = .next t ∧ t.rsp = .ok (.dateTime s1Time) :=
  ⟨consistent_waiting_read _, by decide, _, rfl, by decide⟩

theorem witness_ResetTouchesOnlyTheBlock :
    (({ State.reset with rst := true, chip := [(7, 0x92)] } : State).rst = true ∧
      ({ State.reset with rst := true, chip := [(7, 0x92)] } : State).phase = .idle) ∧
    (State.reset.rst = false ∧ State.reset.phase ≠ .resp ∧ ∃ t, step State.reset = .next t ∧ t.phase = .idle) :=
  ⟨by decide, rfl, by decide, _, rfl, by decide⟩

theorem witness_ResetStepIdleOrRefused :
    State.phase { offered [encode .read] with rst := true } = .idle ∧
    ({ running .read .rdWait with rst := true } : State).rst = true ∧
    ({ running .read .rdWait with rst := true } : State).phase ≠ .idle := by decide

theorem witness_BcdEncPacksDigits : (0 : Byte) ≤ 99 ∧ (99 : Byte) ≤ 99 := by decide

/-- Both ways a malformed byte fails to come back: 0x9A decodes above 99, 0x0A to 10. -/
theorem witness_BcdRoundTrip :
    bcdEnc 99 = some 0x99 ∧ canonicalBcd 0x99 = true ∧
    (canonicalBcd 0x9A = false ∧ ¬ bcdDec 0x9A ≤ 99) ∧ (canonicalBcd 0x0A = false ∧ bcdDec 0x0A ≤ 99) ∧
    (165 : Byte) ≤ 165 := by decide

theorem witness_EncoderImageIsCanonical :
    bcdEnc 0 = some 0x00 ∧ canonicalBcd 0x99 = true ∧ blkEnc s1Time = some s1Block := by decide

theorem witness_BcdencCompletes :
    (running (.bcdenc 99) .exec).phase = .exec ∧ (99 : Byte).toNat ≤ 99 ∧ 99 < (100 : Byte).toNat := by decide

theorem witness_BcddecCompletes : (running (.bcddec 0xFF) .exec).phase = .exec := by decide

theorem witness_RencCompletes :
    (running (.renc maxTime) .exec).phase = .exec ∧ InRange maxTime ∧ ¬ InRange badTime ∧
    ¬ InRange ⟨0, 0, 0, 1, 0, 1, 2100⟩ ∧ InRange ⟨0, 0, 0, 1, 0, 1, 1900⟩ := by
  unfold InRange; decide

theorem witness_RdecCompletes :
    (running (.rdec s1Block) .exec).phase = .exec ∧ s1Block.b0 &&& 0x80 = 0 ∧ s4Block.b0 &&& 0x80 ≠ 0 ∧
    (0x7F : Byte) &&& 0x80 = 0 ∧ (0x80 : Byte) &&& 0x80 ≠ 0 := by decide

theorem witness_EncodeThenDecodeDateTime : validDt maxTime = true ∧ validDt ⟨0, 0, 0, 1, 0, 1, 1900⟩ = true := by
  decide

/-- The second clause both ways: S1's block is canonical, S4's is not. -/
theorem witness_EncodeThenDecodeDateTime_canonical : CanonicalBlock s1Block ∧ ¬ CanonicalBlock s4Block := by
  unfold CanonicalBlock InRange; decide

theorem witness_EncoderWritesOnlyOwnedBits :
    blkEnc maxTime = some ⟨0x59, 0x59, 0x23, 0x31, 0x06, 0x92, 0x99⟩ := by decide

theorem witness_CenturyPolicy :
    blkEnc s1Time = some s1Block ∧
    blkEnc ⟨0, 0, 0, 1, 0, 1, 2002⟩ = some ⟨0x00, 0x00, 0x00, 0x01, 0x00, 0x81, 0x02⟩ ∧
    s1Block.b5.getLsbD 7 = (0x81 : Byte).getLsbD 7 ∧ s1Block.b6 = 0x02 ∧
    blkEnc ⟨0, 0, 0, 1, 0, 1, 1999⟩ = some ⟨0x00, 0x00, 0x00, 0x01, 0x00, 0x01, 0x99⟩ ∧
    blkEnc ⟨0, 0, 0, 1, 0, 1, 2000⟩ = some ⟨0x00, 0x00, 0x00, 0x01, 0x00, 0x81, 0x00⟩ := by decide

/-- Vector 2.4: every reserved bit and VL set, against all of them clear. -/
theorem witness_MaskedBitsNeverReachFields :
    ((0x80 : Byte) &&& 0x7F = 0x00 &&& 0x7F ∧ (0x80 : Byte) &&& 0x7F = 0x00 &&& 0x7F ∧
      (0xC0 : Byte) &&& 0x3F = 0x00 &&& 0x3F ∧ (0xC1 : Byte) &&& 0x3F = 0x01 &&& 0x3F ∧
      (0xF8 : Byte) &&& 0x07 = 0x00 &&& 0x07 ∧ (0x61 : Byte) &&& 0x9F = 0x01 &&& 0x9F) ∧
    (0xB5 : Byte) &&& 0x80 = 0x80 &&& 0x80 := by decide

theorem witness_InitCompletes :
    (running .init .exec).phase = .exec ∧
    ((waiting .init .initW1 [.stored]).phase = .initW1 ∧ (waiting .init .initW1 [.stored]).reqValid = false ∧
      ∃ B, (waiting .init .initW1 [.stored]).answer = some (.ok B)) ∧
    ((waiting .init .initW2 [.stored]).phase = .initW2 ∧ (waiting .init .initW2 [.stored]).reqValid = false ∧
      ∃ B, (waiting .init .initW2 [.stored]).answer = some (.ok B)) ∧
    ((waiting .init .initW2 [.err 5]).reqValid = false ∧
      (waiting .init .initW2 [.err 5]).answer = some (.err 5) ∧
      (waiting .init .initW1 [.err 5]).answer = some (.err 5)) :=
  ⟨rfl, ⟨rfl, rfl, _, rfl⟩, ⟨rfl, rfl, _, rfl⟩, rfl, rfl, rfl⟩

theorem witness_InitRunsBothWrites :
    (∀ as, (waiting .init .exec as).Willing ∧ (waiting .init .exec as).phase = .exec ∧
      (waiting .init .exec as).reqValid = false ∧ (waiting .init .exec as).instr = .init) ∧
    Answer.stored.isOk = true ∧ (Answer.bytes s1Block).isOk = true ∧
    (waiting .init .exec [.stored, .bytes s1Block]).answers = [.stored, .bytes s1Block] ∧
    (waiting .init .exec [.err 5]).answers = .err 5 :: [] ∧
    (waiting .init .exec [.stored, .err 5]).answers = .stored :: .err 5 :: [] :=
  ⟨fun _ => ⟨⟨rfl, rfl, rfl⟩, rfl, rfl, by show decode (encode .init) = _; decide⟩, rfl, rfl, rfl, rfl, rfl⟩

theorem witness_ReadCompletes :
    (running .read .exec).phase = .exec ∧
    ((waiting .read .rdWait [.bytes s1Block]).phase = .rdWait ∧
      (waiting .read .rdWait [.bytes s1Block]).reqValid = false ∧
      (waiting .read .rdWait [.bytes s1Block]).answer = some (.ok s1Block) ∧ s1Block.b0 &&& 0x80 = 0) ∧
    ((waiting .read .rdWait [.bytes s4Block]).answer = some (.ok s4Block) ∧ s4Block.b0 &&& 0x80 ≠ 0) ∧
    (waiting .read .rdWait [.err 5]).answer = some (.err 5) := by
  refine ⟨rfl, ⟨rfl, rfl, rfl, by decide⟩, ⟨rfl, by decide⟩, rfl⟩

theorem witness_WriteCompletes :
    ((running (.write badTime) .exec).phase = .exec ∧ ¬ InRange badTime) ∧ InRange maxTime ∧
    ((writing .stored).phase = .wrWait ∧ (writing .stored).reqValid = false ∧
      ∃ B, (writing .stored).answer = some (.ok B)) ∧
    (writing (.err 5)).answer = some (.err 5) :=
  ⟨⟨rfl, by unfold InRange; decide⟩, by unfold InRange; decide, ⟨rfl, rfl, _, rfl⟩, rfl⟩

/-- In each waiting phase, with a transport that accepts and with one that does not. -/
theorem witness_RequestTransfersBeforeTheAnswer :
    (State.reqValid { running .init .initW1 with reqValid := true } = true ∧
      State.phase { running .init .initW1 with reqValid := true } = .initW1) ∧
    State.phase { running .init .initW2 with reqValid := true, busReqReady := false } = .initW2 ∧
    State.phase { running .read .rdWait with reqValid := true } = .rdWait ∧
    State.phase { writing .stored with reqValid := true } = .wrWait := by decide

/-- Both sides of the equivalence: a READ in WR_WAIT stops, a WRITE there does not. -/
theorem witness_NoStepWithoutAnEdge :
    exec .read (running .read .wrWait) = .fault .noEdge ∧
    ∃ t, exec (.write s1Time) (writing .stored) = .next t := ⟨rfl, _, rfl⟩

theorem witness_CloseCompletes : (running .close .exec).phase = .exec := by decide

/-- `7:FFFFFFFFFFFFFFFF` is a CLOSE too (R94). -/
theorem witness_CloseChangesNothing :
    (offered [0x7FFFFFFFFFFFFFFFF]).Willing ∧ (offered [0x7FFFFFFFFFFFFFFFF]).phase = .idle ∧
    (offered [0x7FFFFFFFFFFFFFFFF]).cmds = 0x7FFFFFFFFFFFFFFFF :: [] ∧
    commandCode 0x7FFFFFFFFFFFFFFFF = 7 := by
  unfold State.Willing; decide

theorem witness_BusErrorIsTheTransactionsError :
    (waiting .init .initW1 [.err 5]).Consistent ∧ (waiting .init .initW1 [.err 5]).rst = false ∧
    (waiting .init .initW1 [.err 5]).outstanding = true ∧ (waiting .init .initW1 [.err 5]).reqValid = false ∧
    (waiting .init .initW1 [.err 5]).answer = some (.err 5) ∧ (waiting .init .initW1 [.err 5]).phase ≠ .resp ∧
    ∃ t, step (waiting .init .initW1 [.err 5]) = .next t ∧ t.phase = .resp ∧ t.rsp = .busError 5 :=
  ⟨consistent_waiting_init _, rfl, rfl, rfl, rfl, by decide, _, rfl, rfl, rfl⟩

theorem witness_ConditionPriority :
    ((running (.write badTime) .exec).rst = false ∧ (running (.write badTime) .exec).phase = .exec ∧
      (running (.write badTime) .exec).instr = .write badTime ∧ ¬ InRange badTime) ∧
    ((waiting .read .rdWait [.err 5]).phase = .rdWait ∧ (waiting .read .rdWait [.err 5]).reqValid = false ∧
      (waiting .read .rdWait [.err 5]).answer = some (.err 5)) ∧
    ((waiting .read .rdWait [.bytes s4Block]).phase ≠ .resp ∧
      ∃ u, step (waiting .read .rdWait [.bytes s4Block]) = .next u ∧ u.phase = .resp ∧
        u.rsp = .lowVoltage s1Time) ∧
    ((running (.bcdenc 100) .exec).phase ≠ .resp ∧
      ∃ u, step (running (.bcdenc 100) .exec) = .next u ∧ u.phase = .resp ∧ u.rsp = .invalidValue) := by
  refine ⟨⟨rfl, rfl, by decide, by unfold InRange; decide⟩, ⟨rfl, rfl, rfl⟩, ⟨by decide, _, rfl, by decide⟩,
    by decide, _, rfl, by decide⟩

theorem witness_ConditionLeavesNoTrace :
    (ended (.busError 5)).rst = false ∧ (ended (.busError 5)).rspReady = true ∧
    (ended (.busError 5)).phase = .resp := by decide

theorem witness_HungTransactionStaysForEver :
    (waiting .read .rdWait [.never]).Consistent ∧ (waiting .read .rdWait [.never]).rst = false ∧
    (waiting .read .rdWait [.never]).outstanding = true ∧ (waiting .read .rdWait [.never]).reqValid = false ∧
    (waiting .read .rdWait [.never]).answer = none :=
  ⟨consistent_waiting_read _, rfl, rfl, rfl, rfl⟩

/-- A transport that answers from the list, one that is StoreBus and one that is FailBus. -/
theorem witness_OperationEndsIfTheBusAnswers :
    (∀ as, (waiting .init .exec as).Willing ∧ (waiting .init .exec as).phase = .exec) ∧
    ((waiting .init .exec [.stored, .err 5]).answer ≠ none ∧
      (waiting .init .exec [.stored, .err 5]).consume.answer ≠ none) ∧
    (State.Willing { running .init .exec with target := .storeBus } ∧
      State.answer { running .init .exec with target := .storeBus } ≠ none ∧
      (State.consume { running .init .exec with target := .storeBus }).answer ≠ none) ∧
    (State.Willing { running .init .exec with target := .failBus 5 } ∧
      State.answer { running .init .exec with target := .failBus 5 } ≠ none ∧
      (State.consume { running .init .exec with target := .failBus 5 }).answer ≠ none) :=
  ⟨fun _ => ⟨⟨rfl, rfl, rfl⟩, rfl⟩, ⟨Option.some_ne_none _, Option.some_ne_none _⟩,
    ⟨⟨rfl, rfl, rfl⟩, Option.some_ne_none _, Option.some_ne_none _⟩, ⟨rfl, rfl, rfl⟩, Option.some_ne_none _,
    Option.some_ne_none _⟩

theorem witness_OutcomeDependsOnCommandAndAnswersOnly :
    (offered [encode (.bcdenc 42)]).phase = .idle ∧
    ∃ u, Host.Core.run Sys2Proof.core 3 (offered [encode (.bcdenc 42)]) = .next u ∧
      u.delivered = [.ok (.byte 0x42)] := ⟨rfl, _, rfl, by decide⟩

theorem witness_WriteThenReadOnStoreBus :
    State.Willing { offered [encode (.write s1Time), encode .read] with target := .storeBus } ∧
    (offered [encode (.write s1Time), encode .read]).phase = .idle ∧
    (offered [encode (.write s1Time), encode .read]).answers = [] ∧ validDt s1Time = true ∧
    (offered [encode (.write s1Time), encode .read]).cmds = encode (.write s1Time) :: encode .read :: [] := by
  unfold State.Willing; decide

theorem witness_FailBusNeverChangesTheChip :
    State.answers { running .read .rdWait with target := .failBus 7 } = [] ∧
    State.target { running .read .rdWait with target := .failBus 7 } = .failBus 7 ∧
    (∃ t, Host.Core.run Sys2Proof.core 2 { running .read .rdWait with target := .failBus 7 } = .next t) ∧
    ∃ t, step { running .read .rdWait with target := .failBus 7 } = .next t ∧
      State.phase { running .read .rdWait with target := .failBus 7 } ≠ .resp ∧
      State.outstanding { running .read .rdWait with target := .failBus 7 } = true ∧ t.phase = .resp :=
  ⟨rfl, rfl, ⟨_, rfl⟩, _, rfl, by decide⟩

theorem witness_PureOperationsFrame :
    (∃ t, exec (.bcdenc 99) (running .close .exec) = .next t) ∧
    (∃ t, exec (.bcddec 0xFF) (running .close .exec) = .next t) ∧
    (∃ t, exec (.renc badTime) (running .close .exec) = .next t) ∧
    (∃ t, exec (.rdec s4Block) (running .close .exec) = .next t) ∧
    ∃ t, exec .close (running .close .exec) = .next t :=
  ⟨⟨_, rfl⟩, ⟨_, rfl⟩, ⟨_, rfl⟩, ⟨_, rfl⟩, _, rfl⟩

/-- Offset 1 lies outside the byte T1 stores to. -/
theorem witness_InitFrame :
    (∃ t, exec .init (waiting .init .initW1 [.stored]) = .next t) ∧
    ∀ reg bytes, (waiting .init .initW1 [.stored]).request = some (.write reg bytes) →
      ¬ (reg.toNat ≤ 1 ∧ 1 < reg.toNat + bytes.length) := by
  refine ⟨⟨_, rfl⟩, fun reg bytes h => ?_⟩
  have h' : some (Request.write 0x00 [0x00]) = some (Request.write reg bytes) := h
  cases h'
  decide

theorem witness_ReadFrame : ∃ t, exec .read (waiting .read .rdWait [.bytes s1Block]) = .next t := ⟨_, rfl⟩

/-- Offsets 1 and 9 lie outside the seven bytes T4 stores to. -/
theorem witness_WriteFrame :
    (∃ t, exec (.write s1Time) (writing .stored) = .next t) ∧
    ∀ reg bytes, (writing .stored).request = some (.write reg bytes) →
      ¬ (reg.toNat ≤ 1 ∧ 1 < reg.toNat + bytes.length) ∧ ¬ (reg.toNat ≤ 9 ∧ 9 < reg.toNat + bytes.length) := by
  refine ⟨⟨_, rfl⟩, fun reg bytes h => ?_⟩
  have h' : some (Request.write 0x02 s1Block.toList) = some (Request.write reg bytes) := h
  cases h'
  decide

theorem witness_StatusCodes :
    (∀ r, (ended r).phase = .resp) ∧ (ended (.ok .nothing)).rsp = .ok .nothing ∧
    (ended (.busError 5)).rsp = .busError 5 ∧ (ended (.lowVoltage s1Time)).rsp = .lowVoltage s1Time ∧
    (ended .invalidValue).rsp = .invalidValue := ⟨fun _ => rfl, rfl, rfl, rfl, rfl⟩

/-- A request offered, in a consistent state: T3, not yet transferred. -/
theorem witness_PortsFollowThePhase :
    State.Consistent { running .read .rdWait with reqValid := true } ∧
    (State.outputs { running .read .rdWait with reqValid := true }).busReqValid = true :=
  ⟨{ consistent_waiting_read [] with request_pending := fun _ => rfl }, rfl⟩

theorem witness_ResponsePortsCarryTheResult :
    (∀ r, (ended r).phase = .resp) ∧ (ended (.ok (.byte 0xFF))).rsp = .ok (.byte 0xFF) ∧
    (ended (.ok (.block s1Block))).rsp = .ok (.block s1Block) ∧
    (ended (.ok (.dateTime s1Time))).rsp = .ok (.dateTime s1Time) ∧
    (ended (.lowVoltage s1Time)).rsp = .lowVoltage s1Time ∧
    (ended (.busError 5)).rsp = .busError 5 := ⟨fun _ => rfl, rfl, rfl, rfl, rfl, rfl⟩

theorem witness_RequestPortsCarryTheTransaction :
    (running .init .initW1).phase = .initW1 ∧ (running .init .initW2).phase = .initW2 ∧
    (running .read .rdWait).phase = .rdWait ∧ (writing .stored).phase = .wrWait := by decide

end Sys2Proof.Tests
end

section
/-!
PROOFS. The family 00_scope.md: a consistent block always takes a step. In EXEC every operation responds or
issues a transaction; in a waiting phase consistency makes the operation in flight one that waits there.
-/

namespace Sys2Proof.Machine

/-- R130 to R173: whatever its operand, an operation in EXEC either has a response or has a transaction to issue. -/
theorem responds_or_issues (s : State) : (∃ r, Responds s.instr r) ∨ ∃ p b, Issues s p b := by
  cases hi : s.instr with
  | bcdenc v =>
    cases hb : bcdEnc v with
    | some b => exact .inl ⟨_, .inl ⟨b, hb, rfl⟩⟩
    | none => exact .inl ⟨_, .inr ⟨hb, rfl⟩⟩
  | bcddec b => exact .inl ⟨_, rfl⟩
  | renc t =>
    cases hB : blkEnc t with
    | some B => exact .inl ⟨_, .inl ⟨B, hB, rfl⟩⟩
    | none => exact .inl ⟨_, .inr ⟨hB, rfl⟩⟩
  | rdec B => exact .inl ⟨_, rfl⟩
  | init => exact .inr ⟨.initW1, s.blk, by simp [Issues, hi]⟩
  | read => exact .inr ⟨.rdWait, s.blk, by simp [Issues, hi]⟩
  | write t =>
    cases hB : blkEnc t with
    | some B => exact .inr ⟨.wrWait, B, by simp [Issues, hi, hB]⟩
    | none => exact .inl ⟨_, hB, rfl⟩
  | close => exact .inl ⟨_, rfl⟩

/-- In EXEC no operation and no operand stops the machine. -/
theorem step_exec_next {s : State} (hr : s.rst = false) (hp : s.phase = .exec) : ∃ t, step s = .next t := by
  rcases responds_or_issues s with ⟨r, h⟩ | ⟨p, b, h⟩
  · exact ⟨_, move_step (.respond r hr hp h)⟩
  · exact ⟨_, move_step (.issue p b hr hp h)⟩

/-- An operation that waits in a phase of its own takes a step whatever the bus does: without an answer it
stays (R232; log 11). -/
theorem step_waits_next {s : State} (hr : s.rst = false) (hw : Waits s.instr s.phase) :
    ∃ t, step s = .next t := by
  obtain ⟨hidle, hresp, -⟩ := hw.running
  rw [step_running hr hidle hresp, exec_waits hw]
  rcases await_cases _ s with ⟨_, e⟩ | ⟨_, _, e⟩ | ⟨_, _, _, e⟩ | ⟨_, _, _, e⟩ <;> exact ⟨_, e⟩

/-- In a consistent state with a transaction outstanding, the operation in flight waits in a phase of its own, so
the step has an edge of R174 to take (log 13). -/
theorem State.Consistent.waits {s : State} (hc : s.Consistent) (ho : s.outstanding = true) :
    Waits s.instr s.phase := by
  cases hp : s.phase with
  | initW1 => exact .inl ⟨hc.init_first hp, .inl rfl⟩
  | initW2 => exact .inl ⟨hc.init_second hp, .inr rfl⟩
  | rdWait => exact .inr (.inl ⟨hc.read_wait hp, rfl⟩)
  | wrWait =>
    obtain ⟨t, ht, -⟩ := hc.write_wait hp
    exact .inr (.inr ⟨⟨t, ht⟩, rfl⟩)
  | idle | exec | resp => simp [State.outstanding, State.request, Phase.request, hp] at ho

/-- A phase with no transaction outstanding is IDLE, EXEC or RESP (R37). -/
theorem State.phase_of_not_outstanding {s : State} (ho : s.outstanding = false) :
    s.phase = .idle ∨ s.phase = .exec ∨ s.phase = .resp := by
  cases hp : s.phase with
  | idle | exec | resp => simp
  | initW1 | initW2 | rdWait | wrWait => simp [State.outstanding, State.request, Phase.request, hp] at ho

/-- From IDLE the block takes a step, with `rst` asserted or not (R95, R220). -/
theorem step_idle_next {s : State} (hp : s.phase = .idle) : ∃ t, step s = .next t := by
  cases hr : s.rst with
  | true => exact ⟨_, move_step (.reset hr hp)⟩
  | false => exact ⟨_, step_idle hr hp⟩

/-- Without a reset a consistent block takes a step, in every phase. -/
theorem State.Consistent.step_next {s : State} (hc : s.Consistent) (hr : s.rst = false) :
    ∃ t, step s = .next t := by
  cases ho : s.outstanding with
  | true => exact step_waits_next hr (hc.waits ho)
  | false =>
    rcases State.phase_of_not_outstanding ho with hp | hp | hp
    · exact step_idle_next hp
    · exact step_exec_next hr hp
    · exact ⟨_, step_resp hr hp⟩

/-- Settles O11: consistency excludes the only fault, a wait that is not the operation's own, and the hypothesis
on `rst` the only refusal. -/
theorem consistentStateTakesAStep : Obligations.ConsistentStateTakesAStep := by
  unfold Obligations.ConsistentStateTakesAStep
  intro s hc h
  rcases h with hr | hp
  · exact hc.step_next hr
  · exact step_idle_next hp

end Sys2Proof.Machine
end

section
/-!
PROOFS. The family 10_state.md. What one step does to `phase`, to a consistent state, to the commands offered and to
the transactions issued, each by the cases of `Move`; the dispatch of a step; reset. The independence from what
came before is in the section after this one.
-/

namespace Sys2Proof.Machine

/-! ### The codec's domains -/

/-- `bcd_enc` has no value exactly off 0 to 99 (R132). -/
theorem bcdEnc_eq_none_iff (v : Byte) : bcdEnc v = none ↔ ¬ v ≤ 99 := by
  simp [bcdEnc]

/-- `bcd_enc` has a value exactly on 0 to 99 (R131). -/
theorem bcdEnc_isSome_iff (v : Byte) : (∃ b, bcdEnc v = some b) ↔ v ≤ 99 := by
  simp [bcdEnc]

/-- `blk_enc` has no value exactly where `valid_dt` fails (R150). -/
theorem blkEnc_eq_none_iff (t : DateTime) : blkEnc t = none ↔ validDt t = false := by
  cases h : validDt t
  · simp [blkEnc_of_invalid h]
  · simp [blkEnc_of_valid h]

/-! ### The edges of R174 -/

/-- An operation that answers from EXEC takes the edge EXEC to RESP. -/
theorem Responds.edge {i : Instr} {r : Response} (h : Responds i r) : Edge i .exec .resp := by
  cases i with
  | init | read => exact h.elim
  | write t =>
    refine ⟨nofun, nofun, fun t' ht => ?_⟩
    cases ht
    exact (blkEnc_eq_none_iff t).mp h.1
  | bcdenc | bcddec | renc | rdec | close => exact ⟨nofun, nofun, nofun⟩

/-- An operation that issues from EXEC takes the edge from EXEC into its waiting phase. -/
theorem Issues.edge {s : State} {p : Phase} {b : RegisterBlock} (h : Issues s p b) : Edge s.instr .exec p := by
  unfold Issues at h
  split at h
  · next hi => rw [h.1]; exact hi
  · next hi => rw [h.1]; exact hi
  · next t hi => rw [h.1]; exact ⟨t, hi, (blkEnc_isSome_iff t).mp ⟨b, h.2⟩⟩
  all_goals exact h.elim

/-- From a waiting phase of its own an operation has the edge to RESP. -/
theorem Waits.edge {i : Instr} {p : Phase} (h : Waits i p) : Edge i p .resp := by
  rcases h with ⟨hi, rfl | rfl⟩ | ⟨hi, rfl⟩ | ⟨ht, rfl⟩
  · exact hi
  · exact hi
  · exact hi
  · exact ht

/-- Settles O10, by the cases of a move: each changes `phase` along the edge of its guard, or not at all. -/
theorem phaseMovesAlongListedEdges : Obligations.PhaseMovesAlongListedEdges := by
  unfold Obligations.PhaseMovesAlongListedEdges
  intro s t hstep
  cases step_move hstep with
  | reset hr hp => exact .inl hp.symm
  | accept hr hp =>
    cases hc : s.cmds with
    | nil => rw [State.accept_nil hc]; exact .inl rfl
    | cons c cs => rw [State.accept_cons hc, hp]; exact .inr trivial
  | take hr hp =>
    cases hq : s.rspReady with
    | true => rw [State.takeResponse_ready hq, hp]; exact .inr trivial
    | false => rw [State.takeResponse_held hq]; exact .inl rfl
  | respond r hr hp h => rw [hp]; exact .inr h.edge
  | issue p b hr hp h => rw [hp]; exact .inr h.edge
  | transfer => exact .inl s.transfer_phase
  | hang => exact .inl rfl
  | fail e hr hw => exact .inr hw.edge
  | second B hr hi hp => rw [hp]; exact .inr hi
  | done B hr hw =>
    rcases hw with ⟨hi, hp⟩ | ⟨ht, hp⟩
    · rw [hp]; exact .inr hi
    · rw [hp]; exact .inr ht
  | decoded B hr hi hp => rw [hp]; exact .inr hi

/-! ### Consistent states -/

/-- With no request offered, IDLE and EXEC are consistent whatever the latches hold. -/
theorem State.Consistent.of_idle_or_exec {s : State} (hp : s.phase = .idle ∨ s.phase = .exec)
    (hq : s.reqValid = false) : s.Consistent := by
  constructor
  case request_pending => simp [hq]
  all_goals rcases hp with hp | hp <;> simp [hp]

/-- With no request offered, RESP is consistent when the operation can report the response held. -/
theorem State.Consistent.of_resp {s : State} (hp : s.phase = .resp) (hq : s.reqValid = false)
    (h : CanReport s.instr s.rsp) : s.Consistent := by
  constructor
  case request_pending => simp [hq]
  case response => exact fun _ => h
  all_goals simp [hp]

/-- A waiting phase of the operation in flight is consistent when `blk` holds what a WRITE sends. -/
theorem State.Consistent.of_waits {s : State} (hw : Waits s.instr s.phase)
    (hb : ∀ d, s.instr = .write d → blkEnc d = some s.blk) : s.Consistent := by
  obtain ⟨-, hresp, ho⟩ := hw.running
  constructor
  case request_pending => exact fun _ => ho
  case response => exact fun hp => absurd hp hresp
  case write_wait =>
    intro hp
    obtain ⟨d, hd⟩ : ∃ d, s.instr = .write d := by simpa [Waits, hp] using hw
    exact ⟨d, hd, hb d hd⟩
  all_goals
    intro hp
    simpa [Waits, hp] using hw

/-- A consistent block offers no request in IDLE and in EXEC (R37). -/
theorem State.Consistent.reqValid_eq_false {s : State} (hc : s.Consistent)
    (hp : s.phase = .idle ∨ s.phase = .exec) : s.reqValid = false := by
  have ho : s.outstanding = false := by
    rcases hp with hp | hp <;> simp [State.outstanding, State.request, Phase.request, hp]
  cases hq : s.reqValid with
  | false => rfl
  | true => exact absurd (hc.request_pending hq) (by simp [ho])

/-- While a WRITE of a consistent block waits, `blk` holds its encoded DateTime (R24). -/
theorem State.Consistent.blkEnc_of_write {s : State} {d : DateTime} (hc : s.Consistent)
    (hw : Waits s.instr s.phase) (hd : s.instr = .write d) : blkEnc d = some s.blk := by
  have hp : s.phase = .wrWait := by simpa [Waits, hd] using hw
  obtain ⟨d', hd', hb⟩ := hc.write_wait hp
  cases hd.symm.trans hd'
  exact hb

/-- What an operation answers from EXEC is a response it can report (R194). -/
theorem Responds.canReport {i : Instr} {r : Response} (h : Responds i r) : CanReport i r := by
  cases i with
  | init | read => exact h.elim
  | bcdenc v =>
    rcases h with ⟨b, hb, hr⟩ | ⟨hb, hr⟩
    · exact .inl ⟨(bcdEnc_isSome_iff v).mp ⟨b, hb⟩, b, hr⟩
    · exact .inr ⟨(bcdEnc_eq_none_iff v).mp hb, hr⟩
  | bcddec b => exact ⟨_, h⟩
  | renc t =>
    rcases h with ⟨B, hB, hr⟩ | ⟨hB, hr⟩
    · exact .inl ⟨(blkEnc_isSome_iff t).mp ⟨B, hB⟩, B, hr⟩
    · exact .inr ⟨(blkEnc_eq_none_iff t).mp hB, hr⟩
  | rdec B =>
    have hr : r = decodedResponse B := h
    rw [decodedResponse_eq] at hr
    cases hv : lowVoltageBit B with
    | false => exact .inl ⟨hv, _, by simpa [hv] using hr⟩
    | true => exact .inr ⟨hv, _, by simpa [hv] using hr⟩
  | write t => exact .inr ⟨(blkEnc_eq_none_iff t).mp h.1, h.2⟩
  | close => exact h

/-- A READ can report what its bytes decode to (R194). -/
theorem canReport_decodedResponse (B : RegisterBlock) : CanReport .read (decodedResponse B) := by
  rw [decodedResponse_eq]
  cases lowVoltageBit B with
  | false => exact .inl ⟨_, rfl⟩
  | true => exact .inr (.inl ⟨_, rfl⟩)

/-- An operation of a consistent block that waits can report the failure of its transaction (R191, R194). -/
theorem State.Consistent.canReport_busError {s : State} (hc : s.Consistent) (hw : Waits s.instr s.phase)
    (e : BusErr) : CanReport s.instr (.busError e) := by
  cases hi : s.instr with
  | init => exact .inr ⟨e, rfl⟩
  | read => exact .inr (.inr ⟨e, rfl⟩)
  | write d => exact .inl ⟨(blkEnc_isSome_iff d).mp ⟨_, hc.blkEnc_of_write hw hi⟩, .inr ⟨e, rfl⟩⟩
  | bcdenc | bcddec | renc | rdec | close => simp [Waits, hi] at hw

/-- The last write of an INIT or of a WRITE, answered Ok, lets it report OK (R194). -/
theorem State.Consistent.canReport_ok {s : State} (hc : s.Consistent)
    (hw : (s.instr = .init ∧ s.phase = .initW2) ∨ ((∃ d, s.instr = .write d) ∧ s.phase = .wrWait)) :
    CanReport s.instr (.ok .nothing) := by
  rcases hw with ⟨hi, -⟩ | ⟨-, hp⟩
  · rw [hi]; exact .inl rfl
  · obtain ⟨d, hi, hb⟩ := hc.write_wait hp
    rw [hi]
    exact .inl ⟨(blkEnc_isSome_iff d).mp ⟨_, hb⟩, .inl rfl⟩

/-- A transaction issued from EXEC is waited for in a phase of its operation's own. -/
theorem Issues.waits {s : State} {p : Phase} {b : RegisterBlock} (h : Issues s p b) : Waits s.instr p := by
  unfold Issues at h
  split at h
  · next hi => exact .inl ⟨hi, .inl h.1⟩
  · next hi => exact .inr (.inl ⟨hi, h.1⟩)
  · next t hi => exact .inr (.inr ⟨⟨t, hi⟩, h.1⟩)
  all_goals exact h.elim

/-- The block a WRITE issues with is its encoded DateTime. -/
theorem Issues.blkEnc_of_write {s : State} {p : Phase} {b : RegisterBlock} {d : DateTime} (h : Issues s p b)
    (hd : s.instr = .write d) : blkEnc d = some b := by
  rw [Issues, hd] at h
  exact h.2

/-- Settles O12: each move ends in IDLE or EXEC with no request offered, in RESP with a response the operation can
report, or in a waiting phase of the operation with its block latched. -/
theorem stepKeepsConsistent : Obligations.StepKeepsConsistent := by
  unfold Obligations.StepKeepsConsistent
  intro s t hc hstep
  cases step_move hstep with
  | reset => exact .of_idle_or_exec (.inl rfl) rfl
  | accept hr hp =>
    cases hcs : s.cmds with
    | nil => rwa [State.accept_nil hcs]
    | cons c cs =>
      rw [State.accept_cons hcs]
      exact .of_idle_or_exec (.inr rfl) (hc.reqValid_eq_false (.inl hp))
  | take =>
    cases hq : s.rspReady with
    | true => rw [State.takeResponse_ready hq]; exact .of_idle_or_exec (.inl rfl) rfl
    | false => rwa [State.takeResponse_held hq]
  | respond r hr hp h => exact .of_resp rfl (hc.reqValid_eq_false (.inr hp)) h.canReport
  | issue p b hr hp h => exact .of_waits h.waits fun _ hd => h.blkEnc_of_write hd
  | transfer hr hw =>
    refine .of_waits (by simpa using hw) fun d hd => ?_
    rw [State.transfer_blk]
    exact hc.blkEnc_of_write hw (by simpa using hd)
  | hang => exact hc
  | fail e hr hw hq =>
    exact .of_resp rfl (by simpa using hq) (by simpa using hc.canReport_busError hw e)
  | second B hr hi => exact .of_waits (.inl ⟨by simpa using hi, .inr rfl⟩) (by simp [hi])
  | done B hr hw hq => exact .of_resp rfl (by simpa using hq) (by simpa using hc.canReport_ok hw)
  | decoded B hr hi hp hq =>
    refine .of_resp rfl (by simpa using hq) ?_
    have hi' : s.applyWrite.consume.instr = .read := by simpa using hi
    show CanReport s.applyWrite.consume.instr _
    rw [hi']
    exact canReport_decodedResponse B

/-! ### Commands offered (R26) -/

/-- Settles O9: only the acceptance in IDLE takes a command off the list. -/
theorem busyBlockKeepsCommandsWaiting : Obligations.BusyBlockKeepsCommandsWaiting := by
  unfold Obligations.BusyBlockKeepsCommandsWaiting
  intro s hbusy
  refine ⟨decide_eq_false hbusy, fun t hstep => ?_⟩
  cases step_move hstep with
  | reset hr hp | accept hr hp => exact absurd hp hbusy
  | take | respond | issue | transfer | hang | fail | second | done | decoded => simp

/-! ### Transactions issued (R37, R175) -/

/-- The phase an operation enters from EXEC has a transaction, and is not EXEC. -/
theorem Issues.request {s : State} {p : Phase} {b : RegisterBlock} (h : Issues s p b) :
    p ≠ .exec ∧ ∃ r, p.request b = some r := by
  rcases h.waits with ⟨-, rfl | rfl⟩ | ⟨-, rfl⟩ | ⟨-, rfl⟩ <;> exact ⟨nofun, _, rfl⟩

/-- Settles O15: only leaving EXEC for a waiting phase, and the second write of INIT, issue a transaction. -/
theorem issueOnlyOnEnteringAWait : Obligations.IssueOnlyOnEnteringAWait := by
  unfold Obligations.IssueOnlyOnEnteringAWait
  intro s t hstep
  cases step_move hstep with
  | issue p b hr hp h =>
    obtain ⟨hne, r, hreq⟩ := h.request
    refine .inr ⟨r, by simp [hreq], hreq, rfl, by simpa [hp] using hne, fun ho => ?_⟩
    simp [State.outstanding, State.request, Phase.request, hp] at ho
  | second B hr hi hp hq ha =>
    exact .inr ⟨t2, by simp [Phase.request, t2], rfl, rfl, by simp [hp], fun _ => ⟨hq, B, ha⟩⟩
  | transfer hr hw hq => exact .inl ⟨s.transfer_busLog, fun _ => hq⟩
  | reset => exact .inl ⟨rfl, nofun⟩
  | take =>
    refine .inl ⟨by simp, ?_⟩
    cases hq : s.rspReady with
    | true => simp [State.takeResponse_ready hq]
    | false => simp [State.takeResponse_held hq]
  | accept | respond | hang | fail | done | decoded => exact .inl ⟨by simp, by simp⟩

/-! ### The dispatch of a step (R22, R91, R174) -/

/-- Settles O7. The operation in flight is the decoding of the two latches put together. -/
theorem stepRunsDecodedOperation : Obligations.StepRunsDecodedOperation := by
  unfold Obligations.StepRunsDecodedOperation
  intro s hr
  refine ⟨fun hidle hresp => ?_, step_idle hr, step_resp hr⟩
  have hi : decode (s.op ++ s.arg) = s.instr := decode_append s.op s.arg
  rw [hi]
  exact step_running hr hidle hresp

/-! ### Reset (R38 to R41, R220, U12) -/

/-- Settles O18: the fields of the reset state. -/
theorem resetIsIdleAndEmpty : Obligations.ResetIsIdleAndEmpty := by
  unfold Obligations.ResetIsIdleAndEmpty
  exact ⟨rfl, rfl, rfl, rfl, rfl, rfl⟩

/-- Settles O19: IDLE with no request is consistent, and nothing has been issued or written. -/
theorem resetMeetsInvariants : Obligations.ResetMeetsInvariants := by
  unfold Obligations.ResetMeetsInvariants
  exact ⟨.of_idle_or_exec (.inl rfl) rfl, List.forall_mem_nil _, rfl⟩

/-- Settles O21, by the two cases of the reset edge. -/
theorem resetStepIdleOrRefused : Obligations.ResetStepIdleOrRefused := by
  unfold Obligations.ResetStepIdleOrRefused
  intro s hr
  rw [step_reset hr]
  rcases resetEdge_cases s with ⟨hp, he⟩ | ⟨hp, he⟩
  · exact ⟨fun _ => he, fun hbusy => absurd hp hbusy⟩
  · exact ⟨fun hidle => absurd hidle hp, fun _ => he⟩

end Sys2Proof.Machine
end

section
/-!
PROOFS. The family 10_state.md, R21: what went before an operation influences nothing after it. Two states are
`Alike` when they differ only in latches nothing will read and in the records; a step keeps two states alike and
adds the same entries to the records of both, so a run does too.
-/

namespace Sys2Proof.Machine

/-- A state with the latches and the records at their reset values: what is left is the phase, the request
handshake, the chip and the environment. -/
def State.erased (s : State) : State :=
  { s with op := 0, arg := 0, blk := RegisterBlock.zero, rsp := .ok .nothing, delivered := [], busLog := [] }

/-- Two states that agree on everything but dead latches and records: `op` and `arg` count while the block is busy
and only by the operation they decode to, `blk` only by the outstanding transaction, `rsp` only in RESP. -/
structure Alike (s u : State) : Prop where
  erased  : u.erased = s.erased
  instr   : s.phase ≠ .idle → u.instr = s.instr
  request : u.request = s.request
  rsp     : s.phase = .resp → u.rsp = s.rsp

/-! ### What alike states share -/

section
variable {s u : State} (h : Alike s u)
include h

theorem Alike.phase : u.phase = s.phase := (congrArg State.phase h.erased :)
theorem Alike.reqValid : u.reqValid = s.reqValid := (congrArg State.reqValid h.erased :)
theorem Alike.chip : u.chip = s.chip := (congrArg State.chip h.erased :)
theorem Alike.rst : u.rst = s.rst := (congrArg State.rst h.erased :)
theorem Alike.cmds : u.cmds = s.cmds := (congrArg State.cmds h.erased :)
theorem Alike.rspReady : u.rspReady = s.rspReady := (congrArg State.rspReady h.erased :)
theorem Alike.answers : u.answers = s.answers := (congrArg State.answers h.erased :)
theorem Alike.target : u.target = s.target := (congrArg State.target h.erased :)
theorem Alike.draw : u.draw = s.draw := (congrArg State.draw h.erased :)

/-- The bus gives alike states one answer. -/
theorem Alike.answer : u.answer = s.answer := by
  unfold State.answer State.storeAnswer
  rw [h.answers, h.target, h.draw, h.request, h.chip]

/-- An operation that waits does so in the alike state. -/
theorem Alike.waits (hw : Waits s.instr s.phase) : Waits u.instr u.phase := by
  rwa [h.instr hw.running.1, h.phase]

end

/-! ### The updates keep states alike -/

@[simp] theorem State.consume_request (s : State) : s.consume.request = s.request := by simp [State.request]
@[simp] theorem State.applyWrite_request (s : State) : s.applyWrite.request = s.request := by
  simp [State.request]
@[simp] theorem State.transfer_request (s : State) : s.transfer.request = s.request := by simp [State.request]

/-- Moving on to the next answer reads no latch and no record. -/
theorem State.consume_erased (s : State) : s.consume.erased = s.erased.consume := by
  unfold State.consume
  cases ha : s.answers with
  | cons a as => simp [State.erased, ha]
  | nil => cases ht : s.target <;> simp [State.erased, ha, ht]

/-- The transfer of a request reads no latch and no record. -/
theorem State.transfer_erased (s : State) : s.transfer.erased = s.erased.transfer := by
  unfold State.transfer
  cases hq : s.busReqReady <;> simp [State.erased, hq]

/-- In IDLE neither the latches nor the records count. -/
theorem Alike.of_idle {s u : State} (hp : s.phase = .idle) (he : u.erased = s.erased) : Alike s u where
  erased := he
  instr hb := absurd hp hb
  request := by
    have hp' : u.phase = .idle := (congrArg State.phase he :).trans hp
    simp [State.request, Phase.request, hp, hp']
  rsp hr := absurd (hp.symm.trans hr) nofun

section
variable {s u : State} (h : Alike s u)
include h

/-- A reset block is idle, so neither the latches nor the records count. -/
theorem Alike.blockReset (d d' : List Response) :
    Alike { s.blockReset with delivered := d } { u.blockReset with delivered := d' } :=
  .of_idle rfl (congrArg State.blockReset h.erased :)

theorem Alike.latch (c : Command) (cs : List Command) :
    Alike (({ s with cmds := cs }).latch c) (({ u with cmds := cs }).latch c) where
  erased := (congrArg (fun e => (({ e with cmds := cs }).latch c).erased) h.erased :)
  instr _ := rfl
  request := rfl
  rsp hp := nomatch hp

theorem Alike.accept : Alike s.accept u.accept := by
  cases hc : s.cmds with
  | nil => rwa [State.accept_nil hc, State.accept_nil (h.cmds.trans hc)]
  | cons c cs => rw [State.accept_cons hc, State.accept_cons (h.cmds.trans hc)]; exact h.latch c cs

/-- In RESP `blk` does not count. -/
theorem Alike.respond (hb : s.phase ≠ .idle) (r : Response) (b c : RegisterBlock) :
    Alike (({ s with blk := b }).respond r) (({ u with blk := c }).respond r) where
  erased := (congrArg (fun e => (e.respond r).erased) h.erased :)
  instr _ := h.instr hb
  request := rfl
  rsp _ := rfl

/-- In a waiting phase `blk` counts by the transaction issued. -/
theorem Alike.issue (hb : s.phase ≠ .idle) {p : Phase} {b c : RegisterBlock} (hp : p ≠ .resp)
    (hr : p.request c = p.request b) :
    Alike (({ s with blk := b }).issue p) (({ u with blk := c }).issue p) where
  erased := (congrArg (fun e => (e.issue p).erased) h.erased :)
  instr _ := h.instr hb
  request := hr
  rsp hp' := absurd hp' hp

theorem Alike.transfer : Alike s.transfer u.transfer where
  erased := by rw [State.transfer_erased, State.transfer_erased, h.erased]
  instr hb := by simpa using h.instr (by simpa using hb)
  request := by simpa using h.request
  rsp hp := by simpa using h.rsp (by simpa using hp)

theorem Alike.consume : Alike s.consume u.consume where
  erased := by rw [State.consume_erased, State.consume_erased, h.erased]
  instr hb := by simpa using h.instr (by simpa using hb)
  request := by simpa using h.request
  rsp hp := by simpa using h.rsp (by simpa using hp)

theorem Alike.applyWrite : Alike s.applyWrite u.applyWrite where
  erased := by
    unfold State.applyWrite
    rw [h.request]
    split
    · next reg bytes _ =>
      exact (congrArg (fun e : State => { e with chip := e.chip.writeBytes reg.toNat bytes }) h.erased :)
    · exact h.erased
  instr hb := by simpa using h.instr (by simpa using hb)
  request := by simpa using h.request
  rsp hp := by simpa using h.rsp (by simpa using hp)

end

/-- Which phase an operation enters from EXEC, and which transaction it issues there, follow from the operation. -/
theorem Issues.of_instr_eq {s u : State} {p : Phase} {b : RegisterBlock} (h : Issues s p b)
    (hu : u.instr = s.instr) : ∃ c, Issues u p c ∧ p.request c = p.request b := by
  unfold Issues at h
  split at h
  · next hi => exact ⟨u.blk, by simp [Issues, hu, hi, h.1], by rw [h.1]; rfl⟩
  · next hi => exact ⟨u.blk, by simp [Issues, hu, hi, h.1], by rw [h.1]; rfl⟩
  · next d hi => exact ⟨b, by simp [Issues, hu, hi, h], rfl⟩
  all_goals exact h.elim

/-! ### The records -/

/-- The records of `t` are those of `s` with these entries added. -/
def Appends (s t : State) (ds : List Response) (ls : List Request) : Prop :=
  t.delivered = s.delivered ++ ds ∧ t.busLog = s.busLog ++ ls

theorem Appends.of_eq {s t : State} (hd : t.delivered = s.delivered) (hl : t.busLog = s.busLog) :
    Appends s t [] [] := ⟨by simp [hd], by simp [hl]⟩

theorem Appends.trans {s t v : State} {ds ds' : List Response} {ls ls' : List Request}
    (h : Appends s t ds ls) (h' : Appends t v ds' ls') : Appends s v (ds ++ ds') (ls ++ ls') := by
  obtain ⟨hd, hl⟩ := h
  obtain ⟨hd', hl'⟩ := h'
  exact ⟨by rw [hd', hd, List.append_assoc], by rw [hl', hl, List.append_assoc]⟩

/-! ### The simulation -/

/-- `u` follows `s` to `t`: what `s` reaches in `t`, `u` reaches in a state alike, with the same entries added to
the records of both. `f` is a step, or a run. -/
def Follows (f : State → Host.Outcome State Fault Refusal) (s u t : State) : Prop :=
  ∃ v ds ls, f u = .next v ∧ Alike t v ∧ Appends s t ds ls ∧ Appends u v ds ls

/-- A step that adds no entry on either side is followed by a move to an alike state. -/
theorem Follows.of_silent {s u t v : State} (hm : Move u v) (ha : Alike t v)
    (hs : Appends s t [] []) (hu : Appends u v [] []) : Follows step s u t :=
  ⟨v, [], [], move_step hm, ha, hs, hu⟩

/-- What a step does from a state, it does from an alike one. -/
theorem Alike.step {s u t : State} (h : Alike s u) (hstep : Machine.step s = .next t) :
    Follows Machine.step s u t := by
  have hrst : s.rst = false → u.rst = false := h.rst.trans
  have hq' : s.reqValid = false → u.reqValid = false := h.reqValid.trans
  cases step_move hstep with
  | reset hr hp =>
    exact .of_silent (.reset (h.rst.trans hr) (h.phase.trans hp)) (h.blockReset _ _) (.of_eq rfl rfl)
      (.of_eq rfl rfl)
  | accept hr hp =>
    exact .of_silent (.accept (hrst hr) (h.phase.trans hp)) h.accept (.of_eq (by simp) (by simp))
      (.of_eq (by simp) (by simp))
  | take hr hp =>
    have hm : Move u u.takeResponse := .take (hrst hr) (h.phase.trans hp)
    cases hrdy : s.rspReady with
    | false =>
      rw [State.takeResponse_held (h.rspReady.trans hrdy)] at hm
      rw [State.takeResponse_held hrdy]
      exact .of_silent hm h (.of_eq rfl rfl) (.of_eq rfl rfl)
    | true =>
      rw [State.takeResponse_ready (h.rspReady.trans hrdy)] at hm
      rw [State.takeResponse_ready hrdy]
      exact ⟨_, [s.rsp], [], move_step hm, h.blockReset _ _, ⟨rfl, by simp⟩, ⟨by simp [h.rsp hp], by simp⟩⟩
  | respond r hr hp hres =>
    have hb : s.phase ≠ .idle := by simp [hp]
    exact .of_silent (.respond r (hrst hr) (h.phase.trans hp) (by rwa [h.instr hb])) (h.respond hb r _ _)
      (.of_eq rfl rfl) (.of_eq rfl rfl)
  | issue p b hr hp his =>
    have hb : s.phase ≠ .idle := by simp [hp]
    obtain ⟨c, his', hreq⟩ := his.of_instr_eq (h.instr hb)
    have hresp : p ≠ .resp := by rintro rfl; exact nomatch his.request.2
    exact ⟨_, [], (p.request b).toList, move_step (.issue p c (hrst hr) (h.phase.trans hp) his'),
      h.issue hb hresp hreq, ⟨by simp, rfl⟩, ⟨by simp, by simp [hreq]⟩⟩
  | transfer hr hw hq =>
    exact .of_silent (.transfer (hrst hr) (h.waits hw) (h.reqValid.trans hq)) h.transfer
      (.of_eq (by simp) (by simp)) (.of_eq (by simp) (by simp))
  | hang hr hw hq ha =>
    exact .of_silent (.hang (hrst hr) (h.waits hw) (hq' hq) (h.answer.trans ha)) h (.of_eq rfl rfl)
      (.of_eq rfl rfl)
  | fail e hr hw hq ha =>
    exact .of_silent (.fail e (hrst hr) (h.waits hw) (hq' hq) (h.answer.trans ha))
      (h.consume.respond (by simpa using hw.running.1) _ _ _) (.of_eq (by simp) (by simp))
      (.of_eq (by simp) (by simp))
  | second B hr hi hp hq ha =>
    have hb : s.phase ≠ .idle := by simp [hp]
    exact ⟨_, [], [t2], move_step (.second B (hrst hr) ((h.instr hb).trans hi) (h.phase.trans hp) (hq' hq)
        (h.answer.trans ha)),
      h.applyWrite.consume.issue (by simpa using hb) nofun rfl, ⟨by simp, by simp [Phase.request, t2]⟩,
      ⟨by simp, by simp [Phase.request, t2]⟩⟩
  | done B hr hw hq ha =>
    have hb : s.phase ≠ .idle := by rcases hw with ⟨-, hp⟩ | ⟨-, hp⟩ <;> simp [hp]
    have hw' := hw
    rw [← h.instr hb, ← h.phase] at hw'
    exact .of_silent (.done B (hrst hr) hw' (hq' hq) (h.answer.trans ha))
      (h.applyWrite.consume.respond (by simpa using hb) _ _ _) (.of_eq (by simp) (by simp))
      (.of_eq (by simp) (by simp))
  | decoded B hr hi hp hq ha =>
    have hb : s.phase ≠ .idle := by simp [hp]
    exact .of_silent (.decoded B (hrst hr) ((h.instr hb).trans hi) (h.phase.trans hp) (hq' hq)
        (h.answer.trans ha))
      (h.applyWrite.consume.respond (by simpa using hb) _ _ _) (.of_eq (by simp) (by simp))
      (.of_eq (by simp) (by simp))

/-- A run of one more step that ends in a next state takes its first step. -/
theorem run_succ_next {n : Nat} {s u : State} (h : Host.Core.run Sys2Proof.core (n + 1) s = .next u) :
    ∃ t, step s = .next t ∧ Host.Core.run Sys2Proof.core n t = .next u := by
  cases hs : step s with
  | next t => exact ⟨t, rfl, (run_succ hs).symm.trans h⟩
  | fault f =>
    have hs' : Sys2Proof.core.step s = .fault f := hs
    simp [Host.Core.run, hs'] at h
  | refused f =>
    have hs' : Sys2Proof.core.step s = .refused f := hs
    simp [Host.Core.run, hs'] at h

/-- What a run does from a state, it does from an alike one. -/
theorem Alike.run (n : Nat) {s u t : State} (h : Alike s u)
    (hrun : Host.Core.run Sys2Proof.core n s = .next t) : Follows (Host.Core.run Sys2Proof.core n) s u t := by
  induction n generalizing s u with
  | zero => cases hrun; exact ⟨u, [], [], rfl, h, .of_eq rfl rfl, .of_eq rfl rfl⟩
  | succ n ih =>
    obtain ⟨s', hs, hrest⟩ := run_succ_next hrun
    obtain ⟨u', ds, ls, hu, h', has, hau⟩ := h.step hs
    obtain ⟨v, ds', ls', hv, hend, has', hau'⟩ := ih h' hrest
    exact ⟨v, ds ++ ds', ls ++ ls', (run_succ hu).trans hv, hend, has.trans has', hau.trans hau'⟩

/-- Settles O49: idle states that differ in latches and records are alike, and runs from alike states agree. -/
theorem outcomeDependsOnCommandAndAnswersOnly : Obligations.OutcomeDependsOnCommandAndAnswersOnly := by
  unfold Obligations.OutcomeDependsOnCommandAndAnswersOnly
  intro n s t o a b r d l hp hrun
  have h : Alike s { s with op := o, arg := a, blk := b, rsp := r, delivered := d, busLog := l } :=
    .of_idle hp rfl
  obtain ⟨v, ds, ls, hv, hend, ⟨hd, hl⟩, hd', hl'⟩ := h.run n hrun
  exact ⟨v, ds, ls, hv, hd, hd', hl, hl', hend.chip, hend.phase⟩

end Sys2Proof.Machine
end

section
/-!
PROOFS. The family 20_memory.md. The transactions a step issues belong to the operation in flight; the chip changes
only by an outstanding write answered Ok, so its canonical form stays and FailBus never changes it; the operations
without a bus side change `phase` and `rsp` alone; the request ports show the outstanding transaction.
-/

namespace Sys2Proof.Machine

/-! ### The transactions issued (R52, R59) -/

/-- The transaction an operation issues on leaving EXEC is one R59 lists for it. -/
theorem Issues.mayIssue {s : State} {p : Phase} {b : RegisterBlock} (h : Issues s p b) :
    ∃ r, p.request b = some r ∧ MayIssue s.instr r := by
  unfold Issues at h
  split at h
  · next hi => rw [h.1, hi]; exact ⟨t1, rfl, .inl rfl⟩
  · next hi => rw [h.1, hi]; exact ⟨t3, rfl, rfl⟩
  · next d hi => rw [h.1, hi]; exact ⟨t4 b, rfl, b, h.2, rfl⟩
  all_goals exact h.elim

/-- What any operation can issue is one of R59's transactions. -/
theorem MayIssue.legal {i : Instr} {r : Request} (h : MayIssue i r) : LegalRequest r := by
  cases i with
  | init =>
    rcases h with h | h
    · exact .inl h
    · exact .inr (.inl h)
  | read => exact .inr (.inr (.inl h))
  | write d =>
    obtain ⟨B, hB, hr⟩ := h
    exact .inr (.inr (.inr ⟨d, B, hB, hr⟩))
  | bcdenc | bcddec | renc | rdec | close => exact h.elim

/-- A move issues nothing, or one transaction of the operation in flight: on leaving EXEC, and T2 after T1. -/
theorem Move.busLog {s t : State} (h : Move s t) :
    t.busLog = s.busLog ∨ ∃ r, t.busLog = s.busLog ++ [r] ∧ MayIssue s.instr r := by
  cases h with
  | issue p b hr hp h =>
    obtain ⟨r, hreq, hmay⟩ := h.mayIssue
    exact .inr ⟨r, by simp [hreq], hmay⟩
  | second B hr hi =>
    refine .inr ⟨t2, by simp [Phase.request, t2], ?_⟩
    rw [hi]
    exact .inr rfl
  | reset | accept | take | respond | transfer | hang | fail | done | decoded => exact .inl (by simp)

/-- Settles O13: what a move adds to the record is the operation's own transaction, so one of R59's. -/
theorem onlyListedTransactions : Obligations.OnlyListedTransactions := by
  unfold Obligations.OnlyListedTransactions
  refine ⟨fun s t hstep => (step_move hstep).busLog, fun s t hlegal hstep => ?_, fun s => rfl⟩
  rcases (step_move hstep).busLog with hlog | ⟨r, hlog, hmay⟩
  · rwa [State.LegalLog, hlog]
  · rw [State.LegalLog, hlog, List.forall_mem_append]
    exact ⟨hlegal, List.forall_mem_singleton.mpr hmay.legal⟩

/-! ### The chip (R50, R51, R57) -/

/-- The block writes inside the offset space of R50. -/
theorem Phase.request_write_le {p : Phase} {b : RegisterBlock} {reg : Byte} {bytes : List Byte}
    (h : p.request b = some (.write reg bytes)) : reg.toNat + bytes.length ≤ 256 := by
  cases p with
  | initW1 | initW2 => cases h; decide
  | wrWait => cases h; simp [RegisterBlock.toList]
  | rdWait | idle | exec | resp => cases h

/-- The outstanding transaction, answered Ok, leaves the chip's memory canonical. -/
theorem State.applyWrite_chip_wf {s : State} (h : s.chip.wf = true) : s.applyWrite.chip.wf = true := by
  unfold State.applyWrite
  split
  · next reg bytes hreq => exact Memory.wf_writeBytes h (Phase.request_write_le hreq)
  · exact h

/-- A move leaves the chip as it was, or the outstanding transaction was answered Ok and has its effect. -/
theorem Move.chip {s t : State} (h : Move s t) :
    t.chip = s.chip ∨ (t.chip = s.applyWrite.chip ∧ ∃ B, s.answer = some (.ok B)) := by
  cases h with
  | second B _ _ _ _ ha | done B _ _ _ ha | decoded B _ _ _ _ ha => exact .inr ⟨by simp, B, ha⟩
  | reset | accept | take | respond | issue | transfer | hang | fail => exact .inl (by simp)

/-- Settles O16: a move stores at most the outstanding write. -/
theorem stepKeepsMemoryCanonical : Obligations.StepKeepsMemoryCanonical := by
  unfold Obligations.StepKeepsMemoryCanonical
  intro s t hwf hstep
  rcases (step_move hstep).chip with hchip | ⟨hchip, -⟩
  · rwa [hchip]
  · rw [hchip]
    exact State.applyWrite_chip_wf hwf

/-! ### FailBus (R71, R197) -/

/-- FailBus answers every transaction: no answer given in advance comes before it. -/
def State.OnFailBus (s : State) (e : BusErr) : Prop := s.answers = [] ∧ s.target = .failBus e

/-- On FailBus the answer is its error. -/
theorem State.OnFailBus.answer {s : State} {e : BusErr} (h : s.OnFailBus e) : s.answer = some (.err e) :=
  State.answer_failBus h.1 h.2

/-- On FailBus no transaction is answered Ok. -/
theorem State.OnFailBus.not_ok {s : State} {e : BusErr} {B : RegisterBlock} (h : s.OnFailBus e) :
    s.answer ≠ some (.ok B) := by simp [h.answer]

/-- A move stays on FailBus, and leaves the chip as it was. -/
theorem State.OnFailBus.move {s t : State} {e : BusErr} (h : s.OnFailBus e) (hm : Move s t) :
    t.OnFailBus e ∧ t.chip = s.chip := by
  refine ⟨?_, ?_⟩
  · obtain ⟨hanswers, htarget⟩ := h
    cases hm with
    | fail | second | done | decoded =>
      exact ⟨State.consume_answers_nil (by simpa using hanswers), by simpa using htarget⟩
    | reset | accept | take | respond | issue | transfer | hang =>
      exact ⟨by simpa using hanswers, by simpa using htarget⟩
  · rcases hm.chip with hchip | ⟨-, B, ha⟩
    · exact hchip
    · exact absurd ha h.not_ok

/-- A run on FailBus leaves the chip as it was. -/
theorem State.OnFailBus.run {n : Nat} {s t : State} {e : BusErr} (h : s.OnFailBus e)
    (hrun : Host.Core.run Sys2Proof.core n s = .next t) : t.chip = s.chip := by
  induction n generalizing s with
  | zero => cases hrun; rfl
  | succ n ih =>
    obtain ⟨u, hstep, hrest⟩ := run_succ_next hrun
    obtain ⟨hu, hchip⟩ := h.move (step_move hstep)
    exact (ih hu hrest).trans hchip

/-- A waiting operation that a move ends on FailBus has failed with its error. -/
theorem State.OnFailBus.rsp_of_ends {s t : State} {e : BusErr} (h : s.OnFailBus e) (hm : Move s t)
    (ho : s.outstanding = true) (hs : s.phase ≠ .resp) (ht : t.phase = .resp) : t.rsp = .busError e := by
  cases hm with
  | fail e' hr hw hq ha =>
    rw [h.answer] at ha
    cases ha
    rfl
  | second B _ _ _ _ ha | done B _ _ _ ha | decoded B _ _ _ _ ha => exact absurd ha h.not_ok
  | transfer => exact absurd (s.transfer_phase.symm.trans ht) hs
  | hang => exact absurd ht hs
  | take hr hp => exact absurd hp hs
  | reset hr hp | accept hr hp | respond r hr hp | issue p b hr hp =>
    simp [State.outstanding, State.request, Phase.request, hp] at ho

/-- Settles O51: a run stays on FailBus, where no transaction is answered Ok. -/
theorem failBusNeverChangesTheChip : Obligations.FailBusNeverChangesTheChip := by
  unfold Obligations.FailBusNeverChangesTheChip
  intro s e hanswers htarget
  have h : s.OnFailBus e := ⟨hanswers, htarget⟩
  exact ⟨fun n t => h.run, fun t hstep hs ho => h.rsp_of_ends (step_move hstep) ho hs⟩

/-! ### The operations without a bus side (R52) -/

/-- BCDENC, BCDDEC, RENC, RDEC and CLOSE compute a response from the operand alone, and do nothing else. -/
theorem exec_eq_compute {i : Instr}
    (h : (∃ v, i = .bcdenc v) ∨ (∃ b, i = .bcddec b) ∨ (∃ d, i = .renc d) ∨ (∃ B, i = .rdec B) ∨ i = .close) :
    ∃ r, exec i = compute r := by
  rcases h with ⟨v, rfl⟩ | ⟨b, rfl⟩ | ⟨d, rfl⟩ | ⟨B, rfl⟩ | rfl
  · cases hb : bcdEnc v with
    | some b => exact ⟨.ok (.byte b), funext fun s => by simp [exec, execBcdenc, hb]⟩
    | none => exact ⟨.invalidValue, funext fun s => by simp [exec, execBcdenc, hb]⟩
  · exact ⟨.ok (.byte (bcdDec b)), rfl⟩
  · cases hB : blkEnc d with
    | some B => exact ⟨.ok (.block B), funext fun s => by simp [exec, execRenc, hB]⟩
    | none => exact ⟨.invalidValue, funext fun s => by simp [exec, execRenc, hB]⟩
  · exact ⟨decodedResponse B, rfl⟩
  · exact ⟨.ok .nothing, rfl⟩

/-- Settles O52: the one edge of such an operation is the response. -/
theorem pureOperationsFrame : Obligations.PureOperationsFrame := by
  unfold Obligations.PureOperationsFrame
  intro i s t hi hexec
  obtain ⟨r, hr⟩ := exec_eq_compute hi
  rw [hr] at hexec
  obtain ⟨-, rfl⟩ := compute_next hexec
  exact ⟨rfl, fun x => rfl⟩

/-! ### The request ports (R90, R99) -/

/-- The low eight bits of write data and no other. -/
theorem getElem_byteMask : ∀ (n : Nat) (h : n < 56), (0xFF#56)[n] = decide (n < 8) := by decide

/-- Putting byte `b` at position `i` of the write data: it reads back there, and the other bytes are as before. -/
theorem extractLsb'_putByte (base : BitVec 56) (b : Byte) (i : Nat) {j : Nat} (hj : j < 7) :
    ((base &&& ~~~((0xFF : BitVec 56) <<< (8 * i))) ||| (b.setWidth 56 <<< (8 * i))).extractLsb' (8 * j) 8 =
      if j = i then b else base.extractLsb' (8 * j) 8 := by
  ext k hk
  have hw : 8 * j + k < 56 := by omega
  rcases Nat.lt_trichotomy j i with h | rfl | h
  · have hlt : 8 * j + k < 8 * i := by omega
    simp [hw, hlt, h.ne]
  · simp [hw, hk, getElem_byteMask]
  · have hge : ¬ 8 * j + k < 8 * i := by omega
    have hpast : 8 ≤ 8 * j + k - 8 * i := by omega
    simp [hw, hge, hpast, h.ne', getElem_byteMask]

/-- Byte `j` of packed write data (R90). -/
theorem extractLsb'_packBytes (bs : List Byte) :
    ∀ (base : BitVec 56) (i j : Nat), j < 7 → (packBytes base i bs).extractLsb' (8 * j) 8 =
      if h : i ≤ j ∧ j < i + bs.length then bs[j - i]'(by omega) else base.extractLsb' (8 * j) 8 := by
  induction bs with
  | nil => intro base i j _; simp [packBytes]
  | cons b bs ih =>
    intro base i j hj
    rw [packBytes, ih _ _ _ hj, extractLsb'_putByte _ _ _ hj]
    by_cases hji : j = i
    · subst hji; simp
    · by_cases h1 : i + 1 ≤ j ∧ j < i + 1 + bs.length
      · have h2 : i ≤ j ∧ j < i + (b :: bs).length := by simp; omega
        have e : j - i = (j - (i + 1)) + 1 := by omega
        simp only [dif_pos h1, dif_pos h2, e, List.getElem_cons_succ]
      · have h2 : ¬ (i ≤ j ∧ j < i + (b :: bs).length) := by simp; omega
        rw [dif_neg h1, dif_neg h2, if_neg hji]

/-- The seven bytes of a block read back from the write data (R90, R104). -/
theorem ofPacked_packBytes (base : BitVec 56) (B : RegisterBlock) :
    RegisterBlock.ofPacked (packBytes base 0 B.toList) = B := by
  have byte (j : Nat) (hj : j < 7) : (packBytes base 0 B.toList).extractLsb' (8 * j) 8 = B.toList[j] := by
    rw [extractLsb'_packBytes _ _ _ _ hj, dif_pos ⟨Nat.zero_le j, by rwa [Nat.zero_add]⟩]
    rfl
  exact (RegisterBlock.mk.injEq ..).mpr ⟨byte 0 (by decide), byte 1 (by decide), byte 2 (by decide),
    byte 3 (by decide), byte 4 (by decide), byte 5 (by decide), byte 6 (by decide)⟩

/-- A one-byte write has its byte in bits 7:0 of the write data (R90). -/
theorem extractLsb'_packBytes_singleton (base : BitVec 56) (b : Byte) :
    (packBytes base 0 [b]).extractLsb' 0 8 = b :=
  extractLsb'_packBytes [b] base 0 0 (by decide)

/-- The data bits of a write are its packed bytes (R99). -/
theorem Request.wdata_write (reg : Byte) (bytes : List Byte) (free : BitVec 56) :
    (Request.write reg bytes).wdata free = packBytes free 0 bytes := rfl

/-- While a transaction is outstanding the ports show it, before and after its transfer (log 26). -/
theorem State.outputs_of_request {s : State} {r : Request} (h : s.request = some r) :
    s.outputs.busReqWrite = r.isWrite ∧ s.outputs.busReqReg = r.reg ∧
      s.outputs.busReqLen = BitVec.ofNat 3 r.len ∧
      s.outputs.busReqWdata = r.wdata (Config.freeBusData s.busLog.length) := by
  simp [State.outputs, h]

/-- A one-byte write on the ports, as both transactions of INIT are. -/
theorem State.outputs_of_write_byte {s : State} {reg b : Byte} (h : s.request = some (.write reg [b])) :
    s.outputs.busReqWrite = true ∧ s.outputs.busReqReg = reg ∧ s.outputs.busReqLen = 1 ∧
      s.outputs.busReqWdata.extractLsb' 0 8 = b := by
  obtain ⟨hwrite, hreg, hlen, hdata⟩ := State.outputs_of_request h
  refine ⟨hwrite, hreg, hlen, ?_⟩
  rw [hdata, Request.wdata_write]
  exact extractLsb'_packBytes_singleton _ b

/-- Settles O59, by the transaction outstanding in each waiting phase. -/
theorem requestPortsCarryTheTransaction : Obligations.RequestPortsCarryTheTransaction := by
  unfold Obligations.RequestPortsCarryTheTransaction
  intro s
  refine ⟨fun hp => State.outputs_of_write_byte (reg := 0x00) ?_,
    fun hp => State.outputs_of_write_byte (reg := 0x01) ?_, fun hp => ?_, fun hp => ?_⟩
  · rw [State.request, hp]; rfl
  · rw [State.request, hp]; rfl
  · have hreq : s.request = some t3 := by rw [State.request, hp]; rfl
    obtain ⟨hwrite, hreg, hlen, -⟩ := State.outputs_of_request hreq
    exact ⟨hwrite, hreg, hlen⟩
  · have hreq : s.request = some (t4 s.blk) := by rw [State.request, hp]; rfl
    obtain ⟨hwrite, hreg, hlen, hdata⟩ := State.outputs_of_request hreq
    refine ⟨hwrite, hreg, hlen, ?_⟩
    rw [hdata, t4, Request.wdata_write]
    exact ofPacked_packBytes _ _

end Sys2Proof.Machine
end

section
/-!
PROOFS. The family 30_encoding.md. Each code decodes to its operation; a written line and its operation determine
each other; a move keeps the count of commands and responses; a request transfers before the answer is taken; the
response ports show the response held.
-/

namespace Sys2Proof

/-! ### The operation of each code (R91, R93) -/

@[simp] theorem decodeFields_zero (p : Payload) : decodeFields 0 p = .bcdenc (p.extractLsb' 0 8) := rfl
@[simp] theorem decodeFields_one (p : Payload) : decodeFields 1 p = .bcddec (p.extractLsb' 0 8) := rfl
@[simp] theorem decodeFields_two (p : Payload) : decodeFields 2 p = .renc (DateTime.ofPayload p) := rfl
@[simp] theorem decodeFields_three (p : Payload) :
    decodeFields 3 p = .rdec (RegisterBlock.ofPacked (p.extractLsb' 0 56)) := rfl
@[simp] theorem decodeFields_four (p : Payload) : decodeFields 4 p = .init := rfl
@[simp] theorem decodeFields_five (p : Payload) : decodeFields 5 p = .read := rfl
@[simp] theorem decodeFields_six (p : Payload) : decodeFields 6 p = .write (DateTime.ofPayload p) := rfl
@[simp] theorem decodeFields_seven (p : Payload) : decodeFields 7 p = .close := rfl

/-- All eight codes are used (R91). -/
theorem code_cases : ∀ op : BitVec 3,
    op = 0 ∨ op = 1 ∨ op = 2 ∨ op = 3 ∨ op = 4 ∨ op = 5 ∨ op = 6 ∨ op = 7 := by decide

/-- A code selects the operation whose code it is (R91). -/
@[simp] theorem decodeFields_code (op : BitVec 3) (p : Payload) : (decodeFields op p).code = op := by
  rcases code_cases op with rfl | rfl | rfl | rfl | rfl | rfl | rfl | rfl <;> rfl

/-- An operation is read back from its code and its payload (R91, R93). -/
@[simp] theorem decodeFields_code_payload (i : Instr) : decodeFields i.code i.payload = i := by
  cases i with
  | bcdenc v => exact congrArg Instr.bcdenc (slice_setWidth v (by decide))
  | bcddec b => exact congrArg Instr.bcddec (slice_setWidth b (by decide))
  | renc t => exact congrArg Instr.renc t.ofPayload_toPayload
  | write t => exact congrArg Instr.write t.ofPayload_toPayload
  | rdec B =>
    have hpacked : (B.toPacked.setWidth 64).extractLsb' 0 56 = B.toPacked := slice_setWidth _ (by decide)
    rw [Instr.code, Instr.payload, decodeFields_three, hpacked, RegisterBlock.ofPacked_toPacked]
  | init | read | close => rfl

/-- Settles O1: a command holds the code and the payload of its operation apart. -/
theorem decodeAfterEncode : Obligations.DecodeAfterEncode := by
  unfold Obligations.DecodeAfterEncode
  intro i
  exact ⟨i.wellFormed_all, (decode_append _ _).trans (decodeFields_code_payload i)⟩

/-- Settles O2: the operands are read from the bits the payloads share. -/
theorem ignoredBitsSelectSameOperation : Obligations.IgnoredBitsSelectSameOperation := by
  unfold Obligations.IgnoredBitsSelectSameOperation
  intro p q
  simp only [decode_append, decodeFields_four, decodeFields_five, decodeFields_seven, and_true]
  refine ⟨fun hbyte => ?_, fun hblock => ?_⟩
  · rw [decodeFields_zero, decodeFields_zero, decodeFields_one, decodeFields_one, hbyte]
    exact ⟨rfl, rfl⟩
  · rw [decodeFields_three, decodeFields_three, hblock]

/-- Settles O3: the decoder selects by the code alone. -/
theorem everyCodeIsOneOperation : Obligations.EveryCodeIsOneOperation := by
  unfold Obligations.EveryCodeIsOneOperation
  exact ⟨fun c => decodeFields_code _ _, fun v b t B => ⟨rfl, rfl, rfl, rfl, rfl, rfl, rfl, rfl⟩⟩

/-- Settles O4: byte `i` of the seven packed bytes of RDEC is byte `i` of the payload. -/
theorem payloadLayout : Obligations.PayloadLayout := by
  unfold Obligations.PayloadLayout
  intro p
  simp only [decode_append]
  refine ⟨rfl, rfl, ⟨_, rfl, rfl, rfl, rfl, rfl, rfl, rfl, rfl, rfl⟩, ⟨_, rfl, ?_⟩, rfl, rfl, rfl⟩
  have byte (a : Nat) (ha : a + 8 ≤ 56) : (p.extractLsb' 0 56).extractLsb' a 8 = p.extractLsb' a 8 := by
    rw [slice_slice _ _ _ _ _ ha, Nat.zero_add]
  exact ⟨byte 0 (by decide), byte 8 (by decide), byte 16 (by decide), byte 24 (by decide),
    byte 32 (by decide), byte 40 (by decide), byte 48 (by decide)⟩

/-- Settles O5: the eight words are closed terms, which the decoder evaluates. -/
theorem vectorCommandsDecode : Obligations.VectorCommandsDecode := by
  unfold Obligations.VectorCommandsDecode
  decide

/-! ### Written lines (R112; log 18) -/

/-- A DateTime is read back from the way it is written. -/
@[simp] theorem DateTime.toText_toDateTime (t : DateTime) : t.toText.toDateTime = t := by
  simp [DateTime.toText, DateTimeText.toDateTime]

/-- Seven bytes that fit are read without loss. -/
theorem RegisterBlock.ofText_of_fits {bs : List Nat} (hlen : bs.length = 7) (hfit : ∀ b ∈ bs, b < 256) :
    ∃ B, RegisterBlock.ofText bs = some B ∧ B.toList.map BitVec.toNat = bs := by
  match bs, hlen with
  | [a, b, c, d, e, f, g], _ =>
    refine ⟨_, rfl, ?_⟩
    simp only [List.forall_mem_cons] at hfit
    simp [RegisterBlock.toList, hfit, Nat.mod_eq_of_lt]

/-- The check on written bytes, by their number and their numerals. -/
theorem Line.wellFormed_rdec_iff (bs : List Nat) :
    (Line.rdec bs).wellFormed = true ↔ bs.length = 7 ∧ ∀ b ∈ bs, b < 256 := by
  simp [Line.wellFormed, fitsByte]

/-- A line that is not well-formed is no command. -/
theorem Line.assemble_of_not_wellFormed {l : Line} (h : l.wellFormed = false) : l.assemble = none := by
  simp [Line.assemble, h]

/-- A well-formed line assembles to the operation it writes, without loss. -/
theorem Line.assemble_of_wellFormed {l : Line} (h : l.wellFormed = true) :
    ∃ i, l.assemble = some i ∧ i.toLine = l := by
  simp only [Line.assemble, h, if_true]
  cases l with
  | bcdenc v | bcddec v =>
    have hv : v < 256 := by simpa [Line.wellFormed, fitsByte] using h
    exact ⟨_, rfl, by simp [Instr.toLine, Nat.mod_eq_of_lt hv]⟩
  | renc t => exact ⟨_, rfl, congrArg Line.renc (DateTimeText.toText_toDateTime h)⟩
  | write t => exact ⟨_, rfl, congrArg Line.write (DateTimeText.toText_toDateTime h)⟩
  | rdec bs =>
    obtain ⟨hlen, hfit⟩ := (Line.wellFormed_rdec_iff bs).mp h
    obtain ⟨B, hB, hbs⟩ := RegisterBlock.ofText_of_fits hlen hfit
    exact ⟨.rdec B, by simp [hB], congrArg Line.rdec hbs⟩
  | init | read | close => exact ⟨_, rfl, rfl⟩

/-- Exactly the well-formed lines are commands. -/
theorem Line.assemble_isSome_iff (l : Line) : (∃ i, l.assemble = some i) ↔ l.wellFormed = true := by
  cases h : l.wellFormed with
  | true =>
    obtain ⟨i, hi, -⟩ := Line.assemble_of_wellFormed h
    exact ⟨fun _ => rfl, fun _ => ⟨i, hi⟩⟩
  | false => simp [Line.assemble_of_not_wellFormed h]

/-- A line that is a command is the one that writes it. -/
theorem Line.toLine_of_assemble {l : Line} {i : Instr} (h : l.assemble = some i) : i.toLine = l := by
  obtain ⟨j, hj, hl⟩ := Line.assemble_of_wellFormed (l.assemble_isSome_iff.mp ⟨i, h⟩)
  cases h.symm.trans hj
  exact hl

/-- The line that writes an operation assembles to it. -/
@[simp] theorem Instr.assemble_toLine (i : Instr) : i.toLine.assemble = some i := by
  have h : i.toLine.wellFormed = true := i.wellFormed_all
  simp only [Line.assemble, h, if_true]
  cases i with
  | bcdenc | bcddec | renc | rdec | write => simp [Instr.toLine]
  | init | read | close => rfl

/-- Settles O6: a line assembles exactly when it is well-formed, which is said of its numerals. -/
theorem lineAssemblesToItsOperation : Obligations.LineAssemblesToItsOperation := by
  unfold Obligations.LineAssemblesToItsOperation
  refine ⟨Instr.assemble_toLine, fun l i => Line.toLine_of_assemble, fun l => ?_,
    fun l => Line.assemble_of_not_wellFormed⟩
  rw [Line.assemble_isSome_iff]
  cases l with
  | bcdenc | bcddec => simp [Line.wellFormed, fitsByte]
  | renc t | write t => exact t.fits_iff
  | rdec bs => exact Line.wellFormed_rdec_iff bs
  | init | read | close => simp [Line.wellFormed]

end Sys2Proof

namespace Sys2Proof.Machine

/-! ### Commands and responses (R95) -/

/-- A busy block that stays busy keeps the count when it takes no command and delivers no response. -/
theorem State.commandCount_of_busy {s t : State} (hs : s.phase ≠ .idle) (ht : t.phase ≠ .idle)
    (hc : t.cmds = s.cmds) (hd : t.delivered = s.delivered) : t.commandCount = s.commandCount := by
  simp [State.commandCount, State.busy, hs, ht, hc, hd]

/-- Acceptance moves a command from the offer into the block (R95). -/
theorem State.accept_commandCount {s : State} (hp : s.phase = .idle) :
    s.accept.commandCount = s.commandCount := by
  cases hc : s.cmds with
  | nil => rw [State.accept_nil hc]
  | cons c cs =>
    rw [State.accept_cons hc]
    simp [State.commandCount, State.busy, hp, hc]

/-- The host's taking of a response moves the operation in flight into the record (R25, R95). -/
theorem State.takeResponse_commandCount {s : State} (hp : s.phase = .resp) :
    s.takeResponse.commandCount = s.commandCount := by
  cases hq : s.rspReady with
  | true =>
    rw [State.takeResponse_ready hq]
    simp [State.commandCount, State.busy, hp]
    omega
  | false => rw [State.takeResponse_held hq]

/-- A move keeps the commands offered, the one in flight and the responses delivered, counted together. -/
theorem Move.commandCount {s t : State} (h : Move s t) : t.commandCount = s.commandCount := by
  cases h with
  | reset hr hp => simp [State.commandCount, State.busy, hp]
  | accept hr hp => exact State.accept_commandCount hp
  | take hr hp => exact State.takeResponse_commandCount hp
  | respond r hr hp => exact State.commandCount_of_busy (by simp [hp]) nofun rfl rfl
  | issue p b hr hp h =>
    have hwait := Waits.running (s := ({ s with blk := b }).issue p) h.waits
    exact State.commandCount_of_busy (by simp [hp]) hwait.1 rfl rfl
  | transfer hr hw =>
    exact State.commandCount_of_busy hw.running.1 (by simp [hw.running.1]) (by simp) (by simp)
  | hang => rfl
  | fail e hr hw => exact State.commandCount_of_busy hw.running.1 nofun (by simp) (by simp)
  | second B hr hi hp => exact State.commandCount_of_busy (by simp [hp]) nofun (by simp) (by simp)
  | done B hr hw =>
    have hbusy : s.phase ≠ .idle := by rcases hw with ⟨-, hp⟩ | ⟨-, hp⟩ <;> simp [hp]
    exact State.commandCount_of_busy hbusy nofun (by simp) (by simp)
  | decoded B hr hi hp => exact State.commandCount_of_busy (by simp [hp]) nofun (by simp) (by simp)

/-- A move only appends to the responses delivered. -/
theorem Move.delivered_extends {s t : State} (h : Move s t) : s.delivered <+: t.delivered := by
  cases h with
  | take =>
    cases hq : s.rspReady with
    | true => rw [State.takeResponse_ready hq]; exact ⟨[s.rsp], rfl⟩
    | false => rw [State.takeResponse_held hq]
  | reset | accept | respond | issue | transfer | hang | fail | second | done | decoded => simp

/-- Settles O8: the acceptance is the whole step from IDLE, and the count is kept move by move. -/
theorem oneResponsePerCommand : Obligations.OneResponsePerCommand := by
  unfold Obligations.OneResponsePerCommand
  refine ⟨fun s c cs hr hp hc => ?_, fun s t hstep => ?_⟩
  · rw [step_idle hr hp, State.accept_cons hc]
    rfl
  · exact ⟨(step_move hstep).commandCount, (step_move hstep).delivered_extends⟩

/-! ### The transfer of a request (R100; log 9 and 11) -/

/-- An offered request is taken off the port when the transport is ready, and held when it is not. -/
theorem State.transfer_of_reqValid {s : State} (h : s.reqValid = true) :
    s.transfer = { s with reqValid := !s.busReqReady } := by
  rcases Bool.eq_false_or_eq_true s.busReqReady with hq | hq
  · have hnext : (!s.busReqReady) = false := by rw [hq, Bool.not_true]
    rw [State.transfer_ready hq, hnext]
  · have hnext : (!s.busReqReady) = s.reqValid := by rw [hq, h, Bool.not_false]
    rw [State.transfer_held hq, hnext]

/-- In a waiting phase of its own an operation waits, whatever operation the latches hold. -/
theorem exec_eq_await {i : Instr} {s : State} (h : Waits i s.phase) : ∃ k, exec i s = await k s := by
  rcases h with ⟨rfl, hp | hp⟩ | ⟨rfl, hp⟩ | ⟨⟨t, rfl⟩, hp⟩ <;>
    simp only [exec, execInit, execRead, execWrite, hp] <;> exact ⟨_, rfl⟩

/-- A waiting operation whose request is still offered does nothing but transfer it. -/
theorem exec_pending {i : Instr} {s : State} (hw : Waits i s.phase) (h : s.reqValid = true) :
    exec i s = .next { s with reqValid := !s.busReqReady } := by
  obtain ⟨k, hk⟩ := exec_eq_await hw
  rw [hk, await_pending h, State.transfer_of_reqValid h]

/-- Settles O40: each of the four is a waiting phase of the operation. -/
theorem requestTransfersBeforeTheAnswer : Obligations.RequestTransfersBeforeTheAnswer := by
  unfold Obligations.RequestTransfersBeforeTheAnswer
  intro s h
  exact ⟨fun hp => exec_pending (.inl ⟨rfl, hp⟩) h, fun hp => exec_pending (.inr (.inl ⟨rfl, hp⟩)) h,
    fun t hp => exec_pending (.inr (.inr ⟨⟨t, rfl⟩, hp⟩)) h⟩

/-! ### The ports that follow the phase (R37, R90) -/

/-- A transaction is outstanding in exactly the four waiting phases (R37). -/
theorem State.outstanding_iff (s : State) : s.outstanding = true ↔
    s.phase = .initW1 ∨ s.phase = .initW2 ∨ s.phase = .rdWait ∨ s.phase = .wrWait := by
  cases hp : s.phase <;> simp [State.outstanding, State.request, Phase.request, hp]

/-- Settles O57. In a consistent state a request on the port belongs to an outstanding transaction. -/
theorem portsFollowThePhase : Obligations.PortsFollowThePhase := by
  unfold Obligations.PortsFollowThePhase
  intro s
  exact ⟨rfl, fun hc hq => s.outstanding_iff.mp (hc.request_pending hq), decide_eq_true_iff,
    decide_eq_true_iff, s.outstanding_iff⟩

/-! ### The response ports (R96, R97) -/

/-- In RESP the response ports show the response held. -/
theorem State.outputs_of_resp {s : State} (hp : s.phase = .resp) :
    s.outputs.rspStatus = s.rsp.status ∧
      s.outputs.rspData = s.rsp.data (Config.freeRspData s.delivered.length) ∧
      s.outputs.rspBuserr = s.rsp.buserr (Config.freeRspErr s.delivered.length) :=
  ⟨if_pos hp, if_pos hp, if_pos hp⟩

/-- Settles O56, by the response held. -/
theorem statusCodes : Obligations.StatusCodes := by
  unfold Obligations.StatusCodes
  intro s hp
  obtain ⟨hstatus, -, -⟩ := State.outputs_of_resp hp
  rw [hstatus]
  exact ⟨fun v h => by rw [h]; rfl, fun e h => by rw [h]; rfl, fun t h => by rw [h]; rfl,
    fun h => by rw [h]; rfl⟩

/-- A byte is in bits 7:0 of `rsp_data` (R96). -/
theorem Response.extractLsb'_data_byte (b : Byte) (free : BitVec 64) :
    (Response.data (.ok (.byte b)) free).extractLsb' 0 8 = b :=
  BitVec.extractLsb'_append_eq_right

/-- The seven bytes of a block are in bits 55:0 of `rsp_data` (R96, R104). -/
theorem Response.ofPacked_data_block (B : RegisterBlock) (free : BitVec 64) :
    RegisterBlock.ofPacked ((Response.data (.ok (.block B)) free).extractLsb' 0 56) = B :=
  (congrArg RegisterBlock.ofPacked BitVec.extractLsb'_append_eq_right).trans B.ofPacked_toPacked

/-- Settles O58: each payload reads back from where R96, R102 and R104 put it. -/
theorem responsePortsCarryTheResult : Obligations.ResponsePortsCarryTheResult := by
  unfold Obligations.ResponsePortsCarryTheResult
  intro s hp
  obtain ⟨-, hdata, herr⟩ := State.outputs_of_resp hp
  rw [hdata, herr]
  refine ⟨fun b h => ?_, fun B h => ?_, fun t h => ?_, fun t h => ?_, fun e h => ?_⟩ <;> rw [h]
  · exact Response.extractLsb'_data_byte b _
  · exact Response.ofPacked_data_block B _
  · exact t.ofPayload_toPayload
  · exact t.ofPayload_toPayload
  · rfl

end Sys2Proof.Machine
end

section
/-!
PROOFS. The family 40_bcd_codec.md. The codec as arithmetic on natural numbers, one lemma per function; from these the
round trip, the canonical bytes as the image of `bcd_enc`, and the answers of BCDENC and BCDDEC.
-/

namespace Sys2Proof.Machine

/-! ### The codec as arithmetic (R131, R134) -/

/-! Dividing by ten does not depend on the width; multiplying by six wraps. -/

theorem toNat_div_ten (v : Byte) : (v / 10).toNat = v.toNat / 10 := BitVec.toNat_udiv

theorem toNat_mod_ten (v : Byte) : (v % 10).toNat = v.toNat % 10 := BitVec.toNat_umod

theorem toNat_six_mul (b : Byte) : (6 * b).toNat = 6 * b.toNat % 256 := BitVec.toNat_mul 6 b

/-- The digits of a value below 160 pack without loss, into one digit of base 16 each. -/
theorem toNat_packedBcd {v : Byte} (h : v.toNat < 160) :
    (packedBcd v).toNat = 16 * (v.toNat / 10) + v.toNat % 10 := by
  rw [packedBcd, BitVec.toNat_ofNat]
  omega

/-- The shifted tens digit and the ones digit do not overlap, so or-ing them adds them. -/
theorem shiftLeft_or_eq_packedBcd {v : Byte} (h : v ≤ 99) : ((v / 10) <<< 4) ||| (v % 10) = packedBcd v := by
  have hv : v.toNat ≤ 99 := h
  have hones : v.toNat % 10 < 2 ^ 4 := by omega
  have htens : (v.toNat / 10) <<< 4 < 2 ^ 8 := by rw [Nat.shiftLeft_eq]; omega
  apply BitVec.eq_of_toNat_eq
  rw [toNat_packedBcd (by omega), BitVec.toNat_or, BitVec.toNat_shiftLeft, toNat_div_ten, toNat_mod_ten,
    Nat.mod_eq_of_lt htens, ← Nat.shiftLeft_add_eq_or_of_lt hones, Nat.shiftLeft_eq]
  omega

/-- `bcd_enc` on its domain is sixteen times the tens digit plus the ones digit. -/
theorem bcdEnc_eq_packedBcd {v : Byte} (h : v ≤ 99) : bcdEnc v = some (packedBcd v) := by
  rw [bcdEnc_of_le h, shiftLeft_or_eq_packedBcd h]

/-- What `bcd_enc` gives, it gives on its domain, as the packed byte. -/
theorem bcdEnc_eq_some_iff (v b : Byte) : bcdEnc v = some b ↔ v ≤ 99 ∧ packedBcd v = b := by
  by_cases h : v ≤ 99
  · rw [bcdEnc_eq_packedBcd h, Option.some_inj, and_iff_right h]
  · rw [bcdEnc_of_not_le h]
    exact ⟨nofun, fun e => absurd e.1 h⟩

/-- The two nibbles of a byte are its digits of base 16. -/
theorem toNat_highNibble (b : Byte) : (b.extractLsb' 4 4).toNat = b.toNat / 16 := by
  rw [BitVec.extractLsb'_toNat, Nat.shiftRight_eq_div_pow]
  omega

theorem toNat_lowNibble (b : Byte) : (b.extractLsb' 0 4).toNat = b.toNat % 16 := by
  simp

/-- `bcd_dec` does not wrap (R134). -/
@[simp] theorem toNat_bcdDec (b : Byte) : (bcdDec b).toNat = bcdValue b := by
  have hb : b.toNat < 256 := b.isLt
  simp only [bcdDec, bcdValue, BitVec.toNat_add, BitVec.toNat_mul, BitVec.toNat_setWidth, toNat_highNibble,
    toNat_lowNibble, BitVec.ofNat_eq_ofNat, BitVec.toNat_ofNat]
  omega

/-- A byte stands for at most 165 (R134). -/
theorem bcdValue_le (b : Byte) : bcdValue b ≤ 165 := by
  have hb : b.toNat < 256 := b.isLt
  rw [bcdValue]
  omega

theorem bcdDec_le (b : Byte) : bcdDec b ≤ 165 := by
  rw [BitVec.le_def, toNat_bcdDec]
  exact bcdValue_le b

/-- A canonical byte, by its two nibbles (R105). -/
theorem canonicalBcd_iff (b : Byte) : canonicalBcd b = true ↔ b.toNat / 16 ≤ 9 ∧ b.toNat % 16 ≤ 9 := by
  simp only [canonicalBcd, Bool.and_eq_true, decide_eq_true_iff, BitVec.le_def, toNat_highNibble, toNat_lowNibble]
  rfl

/-! ### Encoding and decoding against each other (R135, R136) -/

theorem canonicalBcd_packedBcd {v : Byte} (h : v ≤ 99) : canonicalBcd (packedBcd v) = true := by
  have hv : v.toNat ≤ 99 := h
  rw [canonicalBcd_iff, toNat_packedBcd (by omega)]
  omega

/-- Decoding undoes packing, even where the tens digit is above 9. -/
theorem bcdDec_packedBcd {v : Byte} (h : v.toNat < 160) : bcdDec (packedBcd v) = v := by
  apply BitVec.eq_of_toNat_eq
  rw [toNat_bcdDec, bcdValue, toNat_packedBcd h]
  omega

/-- A canonical byte decodes into the domain of `bcd_enc`. -/
theorem bcdDec_le_of_canonicalBcd {b : Byte} (h : canonicalBcd b = true) : bcdDec b ≤ 99 := by
  have hb := (canonicalBcd_iff b).mp h
  have hval : bcdValue b ≤ 99 := by rw [bcdValue]; omega
  rw [BitVec.le_def, toNat_bcdDec]
  exact hval

/-- A canonical byte is the packed byte of the value it decodes to. -/
theorem packedBcd_bcdDec {b : Byte} (h : canonicalBcd b = true) : packedBcd (bcdDec b) = b := by
  have hb := (canonicalBcd_iff b).mp h
  have hle : (bcdDec b).toNat ≤ 99 := bcdDec_le_of_canonicalBcd h
  apply BitVec.eq_of_toNat_eq
  rw [toNat_packedBcd (by omega), toNat_bcdDec, bcdValue]
  omega

/-- Encoding the decoding of a canonical byte gives the byte. -/
theorem bcdEnc_bcdDec {b : Byte} (h : canonicalBcd b = true) : bcdEnc (bcdDec b) = some b :=
  (bcdEnc_eq_some_iff _ _).mpr ⟨bcdDec_le_of_canonicalBcd h, packedBcd_bcdDec h⟩

/-- The image of `bcd_enc` is the canonical bytes. -/
theorem exists_bcdEnc_eq_some_iff (b : Byte) : (∃ v, bcdEnc v = some b) ↔ canonicalBcd b = true := by
  constructor
  · rintro ⟨v, hv⟩
    obtain ⟨hle, rfl⟩ := (bcdEnc_eq_some_iff v b).mp hv
    exact canonicalBcd_packedBcd hle
  · exact fun h => ⟨bcdDec b, bcdEnc_bcdDec h⟩

/-- Every value up to 165 is decoded from some byte: from its packed byte while the tens digit fits a nibble, and
above that from a byte whose high nibble is 15. -/
theorem exists_bcdDec_eq {n : Byte} (h : n ≤ 165) : ∃ b, bcdDec b = n := by
  have hn : n.toNat ≤ 165 := h
  by_cases hlt : n.toNat < 160
  · exact ⟨packedBcd n, bcdDec_packedBcd hlt⟩
  · refine ⟨BitVec.ofNat 8 (240 + (n.toNat - 150)), BitVec.eq_of_toNat_eq ?_⟩
    rw [toNat_bcdDec, bcdValue, BitVec.toNat_ofNat]
    omega

/-- Settles O25. A malformed byte whose value is in the domain of `bcd_enc` comes back as the canonical byte of the
same value. -/
theorem bcdRoundTrip : Obligations.BcdRoundTrip := by
  unfold Obligations.BcdRoundTrip
  refine ⟨fun v b h => ?_, fun v => (bcdEnc_isSome_iff v).mpr, fun b => bcdEnc_bcdDec, fun b h => ?_,
    by decide, by decide, by decide, bcdDec_le, fun n => exists_bcdDec_eq⟩
  · obtain ⟨hle, rfl⟩ := (bcdEnc_eq_some_iff v b).mp h
    have hv : v.toNat ≤ 99 := hle
    exact bcdDec_packedBcd (by omega)
  · by_cases hle : bcdDec b ≤ 99
    · have hcanon := canonicalBcd_packedBcd hle
      have hne : packedBcd (bcdDec b) ≠ b := fun e => by simp [e, h] at hcanon
      exact .inr ⟨hle, _, bcdEnc_eq_packedBcd hle, hne, hcanon⟩
    · exact .inl ⟨hle, bcdEnc_of_not_le hle⟩

/-! ### The bytes of an encoded block (R136, R148) -/

/-- A mask takes no nibble higher, so what is canonical stays so under any mask. -/
theorem canonicalBcd_and {b : Byte} (m : Byte) (h : canonicalBcd b = true) : canonicalBcd (b &&& m) = true := by
  have and_le (x y : BitVec 4) : x &&& y ≤ x := Nat.and_le_left
  simp only [canonicalBcd, Bool.and_eq_true, decide_eq_true_iff, BitVec.extractLsb'_and] at h ⊢
  exact ⟨BitVec.le_trans (and_le _ _) h.1, BitVec.le_trans (and_le _ _) h.2⟩

/-- The century bit lies outside the mask of the month field (R140, R145). -/
theorem or_centuryMask_and (mo : Byte) (y : BitVec 16) : (mo ||| centuryMask y) &&& 0x1F = mo &&& 0x1F := by
  have hmask : centuryMask y &&& 0x1F = 0 := by unfold centuryMask; split <;> rfl
  rw [BitVec.and_or_distrib_right, hmask]
  exact BitVec.or_zero

/-- Each byte of an encoded block is an encoding, beside the mask on Seconds and the century bit in Month. -/
theorem bcdEnc_of_blkEnc {t : DateTime} {B : RegisterBlock} (h : blkEnc t = some B) :
    (∃ s, bcdEnc t.sec = some s ∧ B.b0 = s &&& 0x7F) ∧ bcdEnc t.min = some B.b1 ∧ bcdEnc t.hour = some B.b2 ∧
      bcdEnc t.day = some B.b3 ∧ bcdEnc t.wday = some B.b4 ∧
      (∃ mo, bcdEnc t.month = some mo ∧ B.b5 = mo ||| centuryMask t.year) ∧
      bcdEnc (twoDigitYear t.year) = some B.b6 := by
  unfold blkEnc at h
  split at h
  · split at h
    · next hs hmi hh hd hw hmo hy =>
      cases h
      exact ⟨⟨_, hs, rfl⟩, hmi, hh, hd, hw, ⟨_, hmo, rfl⟩, hy⟩
    · cases h
  · cases h

/-- Settles O26: each byte of a block is canonical before its mask, but for the century bit, which the
mask takes off. -/
theorem encoderImageIsCanonical : Obligations.EncoderImageIsCanonical := by
  unfold Obligations.EncoderImageIsCanonical
  refine ⟨exists_bcdEnc_eq_some_iff, fun t B h => ?_⟩
  have masked {v b : Byte} (m : Byte) (hb : bcdEnc v = some b) : canonicalBcd (b &&& m) = true :=
    canonicalBcd_and m ((exists_bcdEnc_eq_some_iff b).mp ⟨v, hb⟩)
  obtain ⟨⟨s, hs, hb0⟩, hmin, hhour, hday, hwday, ⟨mo, hmo, hb5⟩, hyear⟩ := bcdEnc_of_blkEnc h
  rw [hb0, hb5, or_centuryMask_and]
  exact ⟨canonicalBcd_and _ (masked _ hs), masked _ hmin, masked _ hhour, masked _ hday, masked _ hwday,
    masked _ hmo, masked _ hyear⟩

/-! ### The answers of BCDENC and BCDDEC (R130, R132, R133) -/

/-- BCDENC answers the byte of `bcd_enc` where there is one. -/
theorem exec_bcdenc_of_some {v b : Byte} {s : State} (hp : s.phase = .exec) (hb : bcdEnc v = some b) :
    exec (.bcdenc v) s = .next (s.respond (.ok (.byte b))) := by
  simp only [exec, execBcdenc, hb, compute_exec _ hp]

/-- BCDENC answers INVALID_VALUE where `bcd_enc` has no value. -/
theorem exec_bcdenc_of_none {v : Byte} {s : State} (hp : s.phase = .exec) (hb : bcdEnc v = none) :
    exec (.bcdenc v) s = .next (s.respond .invalidValue) := by
  simp only [exec, execBcdenc, hb, compute_exec _ hp]

/-- Settles O27, on both sides of the domain of `bcd_enc`. -/
theorem bcdencCompletes : Obligations.BcdencCompletes := by
  unfold Obligations.BcdencCompletes
  refine ⟨fun v s hp hv => exec_bcdenc_of_some hp (bcdEnc_eq_packedBcd hv), fun v s hp hv => ?_,
    fun p => (decode_append 0 p).trans (decodeFields_zero p)⟩
  have hnone : bcdEnc v = none := bcdEnc_of_not_le fun hle : v.toNat ≤ 99 => by omega
  exact ⟨hnone, exec_bcdenc_of_none hp hnone⟩

/-- `bcd_dec` as the byte of the number it stands for. -/
theorem bcdDec_eq_ofNat (b : Byte) : bcdDec b = BitVec.ofNat 8 (bcdValue b) := by
  rw [← toNat_bcdDec, BitVec.ofNat_toNat, BitVec.setWidth_eq]

/-- Settles O28: the byte answered is the number `bcd_dec` computes. -/
theorem bcddecCompletes : Obligations.BcddecCompletes := by
  unfold Obligations.BcddecCompletes
  intro b s hp
  have hexec : exec (.bcddec b) s = .next (s.respond (.ok (.byte (bcdDec b)))) := compute_exec _ hp
  rw [hexec, bcdDec_eq_ofNat]
  rfl

/-! ### The formulas of R131 and R134 -/

theorem highNibble_packedBcd {v : Byte} (h : v ≤ 99) : (packedBcd v).extractLsb' 4 4 = (v / 10).setWidth 4 := by
  have hv : v.toNat ≤ 99 := h
  apply BitVec.eq_of_toNat_eq
  rw [toNat_highNibble, toNat_packedBcd (by omega), BitVec.toNat_setWidth, toNat_div_ten]
  omega

theorem lowNibble_packedBcd {v : Byte} (h : v ≤ 99) : (packedBcd v).extractLsb' 0 4 = (v % 10).setWidth 4 := by
  have hv : v.toNat ≤ 99 := h
  apply BitVec.eq_of_toNat_eq
  rw [toNat_lowNibble, toNat_packedBcd (by omega), BitVec.toNat_setWidth, toNat_mod_ten]
  omega

theorem packedBcd_le {v : Byte} (h : v ≤ 99) : packedBcd v ≤ 0x99 := by
  have hv : v.toNat ≤ 99 := h
  have hle : 16 * (v.toNat / 10) + v.toNat % 10 ≤ 153 := by omega
  rw [BitVec.le_def, toNat_packedBcd (by omega)]
  exact hle

/-- Settles O23, each part a fact about the packed byte. -/
theorem bcdEncPacksDigits : Obligations.BcdEncPacksDigits := by
  unfold Obligations.BcdEncPacksDigits
  intro v h
  exact ⟨packedBcd v, bcdEnc_eq_packedBcd h, highNibble_packedBcd h, lowNibble_packedBcd h,
    (shiftLeft_or_eq_packedBcd h).symm, canonicalBcd_packedBcd h, packedBcd_le h⟩

/-- Each step of the high nibble counts ten in place of sixteen, so decoding takes six off for each (R134). -/
theorem bcdDec_eq_sub (b : Byte) : bcdDec b = b - (6 : Byte) * (b >>> 4) := by
  have hb : b.toNat < 256 := b.isLt
  apply BitVec.eq_of_toNat_eq
  rw [toNat_bcdDec, bcdValue, BitVec.toNat_sub, toNat_six_mul, BitVec.toNat_ushiftRight,
    Nat.shiftRight_eq_div_pow]
  omega

/-- Encoding puts six on for each ten (R131). -/
theorem packedBcd_eq_add {v : Byte} (h : v ≤ 99) : packedBcd v = v + 6 * (v / 10) := by
  have hv : v.toNat ≤ 99 := h
  apply BitVec.eq_of_toNat_eq
  rw [toNat_packedBcd (by omega), BitVec.toNat_add, toNat_six_mul, toNat_div_ten]
  omega

/-- Settles O24, by the number a byte stands for and the packed byte of a value. -/
theorem bcdDecFormula : Obligations.BcdDecFormula := by
  unfold Obligations.BcdDecFormula
  refine ⟨fun b => ⟨toNat_bcdDec b, bcdDec_le b, bcdDec_eq_sub b⟩, fun v h => ?_⟩
  rw [bcdEnc_eq_packedBcd h, packedBcd_eq_add h]

end Sys2Proof.Machine
end

section
/-!
PROOFS. The family 41_regmap_codec.md. `blk_enc` is the register image of the DateTimes in range and of no other;
`blk_dec` undoes the image, since the encoder sets only bits inside the masks and the century bit. The answers of
RENC and RDEC, the round trip and the century policy follow from these two.
-/

namespace Sys2Proof.Machine

/-! ### The field ranges (R146) -/

/-- Settles O29: `validDt_iff`, with the comparisons of bytes read as comparisons of numbers. -/
theorem validDtIsTheFieldRanges : Obligations.ValidDtIsTheFieldRanges := by
  unfold Obligations.ValidDtIsTheFieldRanges
  exact validDt_iff

/-! ### Masks (R140, R142, R143) -/

/-- A mask of the low `k` bits takes nothing from a byte that has no higher bit. -/
theorem and_lowMask_eq_self {b m : Byte} (k : Nat) (hm : m.toNat = 2 ^ k - 1) (hb : b.toNat < 2 ^ k) :
    b &&& m = b := by
  apply BitVec.eq_of_toNat_eq
  rw [BitVec.toNat_and, hm, Nat.and_two_pow_sub_one_eq_mod, Nat.mod_eq_of_lt hb]

/-- The mask of the Year byte takes nothing. -/
theorem and_byteMask (b : Byte) : b &&& 0xFF = b := and_lowMask_eq_self 8 rfl b.isLt

/-- Bit 7 alone, where VL and the century bit stand. -/
theorem and_topBit (b : Byte) : b &&& 0x80 = if b.getLsbD 7 then 0x80 else 0 := BitVec.and_twoPow b 7

/-- Bit 7 of a byte is 0 when a mask without it takes nothing from the byte. -/
theorem topBit_eq_false_of_and {b m : Byte} (hm : m.getLsbD 7 = false) (h : b &&& m = b) : b.getLsbD 7 = false := by
  rw [← h, BitVec.getLsbD_and, hm, Bool.and_false]

/-- Bytes that agree under a mask with bit 7 agree in bit 7. -/
theorem topBit_eq_of_and {b b' m : Byte} (hm : m.getLsbD 7 = true) (h : b &&& m = b' &&& m) :
    b.getLsbD 7 = b'.getLsbD 7 := by
  have hbit := congrArg (BitVec.getLsbD · 7) h
  simpa only [BitVec.getLsbD_and, hm, Bool.and_true] using hbit

theorem and_topBit_eq_zero_iff (b : Byte) : b &&& 0x80 = 0 ↔ b.getLsbD 7 = false := by
  rw [and_topBit]
  cases b.getLsbD 7 <;> decide

/-- The packed byte of each field in range lies inside the mask of the field. -/
theorem packedBcd_and_masks {t : DateTime} (h : InRange t) :
    packedBcd t.sec &&& 0x7F = packedBcd t.sec ∧ packedBcd t.min &&& 0x7F = packedBcd t.min ∧
      packedBcd t.hour &&& 0x3F = packedBcd t.hour ∧ packedBcd t.day &&& 0x3F = packedBcd t.day ∧
      packedBcd t.wday &&& 0x07 = packedBcd t.wday ∧ packedBcd t.month &&& 0x1F = packedBcd t.month := by
  obtain ⟨hsec, hmin, hhour, ⟨-, hday⟩, hwday, ⟨-, hmonth⟩, -⟩ := h
  have masked {v m : Byte} (k : Nat) (hm : m.toNat = 2 ^ k - 1) (hv : v.toNat < 160)
      (hk : 16 * (v.toNat / 10) + v.toNat % 10 < 2 ^ k) : packedBcd v &&& m = packedBcd v :=
    and_lowMask_eq_self k hm (by rwa [toNat_packedBcd hv])
  exact ⟨masked 7 rfl (by omega) (by omega), masked 7 rfl (by omega) (by omega),
    masked 6 rfl (by omega) (by omega), masked 6 rfl (by omega) (by omega),
    masked 3 rfl (by omega) (by omega), masked 5 rfl (by omega) (by omega)⟩

/-! ### The encoder as the register image (R145, R148, R150) -/

theorem twoDigitYear_eq_ofNat (y : BitVec 16) : twoDigitYear y = BitVec.ofNat 8 (y.toNat % 100) := by
  apply BitVec.eq_of_toNat_eq
  simp [twoDigitYear]

theorem blkEnc_isSome_iff_inRange (t : DateTime) : (∃ B, blkEnc t = some B) ↔ InRange t :=
  (blkEnc_isSome_iff t).trans (validDtIsTheFieldRanges t)

/-- Each byte of an encoded block is the packed byte of its field. -/
theorem registerImage_of_blkEnc {t : DateTime} {B : RegisterBlock} (h : blkEnc t = some B) :
    registerImage t = B := by
  have packed {v b : Byte} (hb : bcdEnc v = some b) : packedBcd v = b := ((bcdEnc_eq_some_iff v b).mp hb).2
  obtain ⟨hsec, -⟩ := packedBcd_and_masks ((blkEnc_isSome_iff_inRange t).mp ⟨B, h⟩)
  obtain ⟨⟨s, hs, hb0⟩, hmin, hhour, hday, hwday, ⟨mo, hmo, hb5⟩, hyear⟩ := bcdEnc_of_blkEnc h
  rw [← packed hs, hsec] at hb0
  rw [← packed hmo] at hb5
  rw [twoDigitYear_eq_ofNat] at hyear
  exact (RegisterBlock.mk.injEq ..).mpr
    ⟨hb0.symm, packed hmin, packed hhour, packed hday, packed hwday, hb5.symm, packed hyear⟩

/-- `blk_enc` gives the register image of the DateTimes in range, and nothing else. -/
theorem blkEnc_eq_some_iff (t : DateTime) (B : RegisterBlock) :
    blkEnc t = some B ↔ InRange t ∧ registerImage t = B := by
  refine ⟨fun h => ⟨(blkEnc_isSome_iff_inRange t).mp ⟨B, h⟩, registerImage_of_blkEnc h⟩, ?_⟩
  rintro ⟨hin, rfl⟩
  obtain ⟨B, hB⟩ := (blkEnc_isSome_iff_inRange t).mpr hin
  rw [registerImage_of_blkEnc hB, hB]

/-- RENC answers the block of `blk_enc` where there is one. -/
theorem exec_renc_of_some {t : DateTime} {B : RegisterBlock} {s : State} (hp : s.phase = .exec)
    (hB : blkEnc t = some B) : exec (.renc t) s = .next (s.respond (.ok (.block B))) := by
  simp only [exec, execRenc, hB, compute_exec _ hp]

/-- RENC answers INVALID_VALUE where `blk_enc` has no value. -/
theorem exec_renc_of_none {t : DateTime} {s : State} (hp : s.phase = .exec) (hB : blkEnc t = none) :
    exec (.renc t) s = .next (s.respond .invalidValue) := by
  simp only [exec, execRenc, hB, compute_exec _ hp]

/-- Settles O30, on both sides of the field ranges. -/
theorem rencCompletes : Obligations.RencCompletes := by
  unfold Obligations.RencCompletes
  refine ⟨fun t s hp hin => exec_renc_of_some hp ((blkEnc_eq_some_iff t _).mpr ⟨hin, rfl⟩),
    fun t s hp hout => ?_, fun p => (decode_append 2 p).trans (decodeFields_two p)⟩
  have hnone : blkEnc t = none :=
    Option.eq_none_iff_forall_ne_some.mpr fun B hB => hout ((blkEnc_eq_some_iff t B).mp hB).1
  exact ⟨hnone, exec_renc_of_none hp hnone⟩

/-! ### The decoder (R144, R151, R152) -/

/-- The decoded year does not wrap (R144). -/
theorem toNat_blkFields_year (B : RegisterBlock) :
    (blkFields B).year.toNat = bcdValue B.b6 + (if B.b5.getLsbD 7 then 2000 else 1900) := by
  have hle := bcdValue_le B.b6
  have hbase : (centuryBase (centuryBit B)).toNat = if B.b5.getLsbD 7 then 2000 else 1900 :=
    apply_ite BitVec.toNat _ _ _
  simp only [blkFields, and_byteMask, BitVec.toNat_add, BitVec.toNat_setWidth, toNat_bcdDec, hbase]
  split <;> omega

/-- Every block decodes to its fields (R153). -/
theorem decodesTo_blkFields (B : RegisterBlock) : DecodesTo B (blkFields B) := by
  refine ⟨toNat_bcdDec _, toNat_bcdDec _, toNat_bcdDec _, toNat_bcdDec _, toNat_bcdDec _, toNat_bcdDec _, ?_⟩
  rw [toNat_blkFields_year, and_topBit]
  cases B.b5.getLsbD 7 <;> rfl

/-- RDEC answers what the block decodes to, for any block. -/
theorem exec_rdec {s : State} (hp : s.phase = .exec) (B : RegisterBlock) :
    exec (.rdec B) s = .next (s.respond (decodedResponse B)) := compute_exec _ hp

/-- Settles O31: the response carries the decoded fields, and bit 7 of Seconds selects its status. -/
theorem rdecCompletes : Obligations.RdecCompletes := by
  unfold Obligations.RdecCompletes
  refine ⟨fun B s hp => ⟨blkFields B, decodesTo_blkFields B, ?_⟩,
    fun p => (decode_append 3 p).trans (decodeFields_three p)⟩
  rw [exec_rdec hp, decodedResponse_eq, lowVoltageBit, ne_eq, and_topBit_eq_zero_iff]
  cases B.b0.getLsbD 7 with
  | false => exact ⟨fun _ => rfl, fun h => absurd rfl h⟩
  | true => exact ⟨nofun, fun _ => rfl⟩

/-! ### The bits of an encoded block (R145, R149) -/

/-- The century mask lies outside the month field, in the rest of what the encoder owns of Month. -/
theorem centuryMask_and (y : BitVec 16) : centuryMask y &&& 0x9F = centuryMask y := by
  unfold centuryMask
  split <;> rfl

/-- Settles O33: the digits lie inside the field masks, and the century bit inside 0x9F. -/
theorem encoderWritesOnlyOwnedBits : Obligations.EncoderWritesOnlyOwnedBits := by
  unfold Obligations.EncoderWritesOnlyOwnedBits
  intro t B h
  obtain ⟨hin, rfl⟩ := (blkEnc_eq_some_iff t B).mp h
  obtain ⟨hsec, hmin, hhour, hday, hwday, hmonth⟩ := packedBcd_and_masks hin
  have hb5 : (registerImage t).b5 &&& 0x9F = (registerImage t).b5 := by
    have hmo : packedBcd t.month &&& 0x9F = packedBcd t.month := by
      rw [← hmonth, BitVec.and_assoc]
      rfl
    exact BitVec.and_or_distrib_right.trans (congrArg₂ (· ||| ·) hmo (centuryMask_and t.year))
  exact ⟨hsec, hmin, hhour, hday, hwday, hb5, and_byteMask _, topBit_eq_false_of_and rfl hsec⟩

/-- Encoding sets the century bit exactly for years from 2000 on: the month's digits stay below it. -/
theorem centuryBit_registerImage {t : DateTime} (h : InRange t) :
    (registerImage t).b5.getLsbD 7 = decide (2000 ≤ t.year.toNat) := by
  obtain ⟨-, -, -, -, -, hmonth⟩ := packedBcd_and_masks h
  have hmo : (packedBcd t.month).getLsbD 7 = false := topBit_eq_false_of_and rfl hmonth
  have hmask : (registerImage t).b5 = packedBcd t.month ||| if 2000 ≤ t.year.toNat then 0x80 else 0x00 := rfl
  rw [hmask, BitVec.getLsbD_or, hmo, Bool.false_or]
  split
  · next hy => rw [decide_eq_true hy]; rfl
  · next hy => rw [decide_eq_false hy]; rfl

/-! ### Decoding undoes encoding (R154) -/

/-- The year comes back from its two digits and the century bit. -/
theorem blkFields_registerImage_year {t : DateTime} (h : InRange t) :
    (blkFields (registerImage t)).year = t.year := by
  have hval : bcdValue (registerImage t).b6 = t.year.toNat % 100 := by
    have hlt : t.year.toNat % 100 % 2 ^ 8 < 160 := by omega
    rw [registerImage, ← toNat_bcdDec, bcdDec_packedBcd (by rwa [BitVec.toNat_ofNat]), BitVec.toNat_ofNat]
    omega
  have hcentury := centuryBit_registerImage h
  obtain ⟨-, -, -, -, -, -, hlow, hhigh⟩ := h
  apply BitVec.eq_of_toNat_eq
  rw [toNat_blkFields_year, hval, hcentury]
  simp only [decide_eq_true_eq]
  split <;> omega

theorem blkFields_registerImage {t : DateTime} (h : InRange t) : blkFields (registerImage t) = t := by
  obtain ⟨hsec, hmin, hhour, hday, hwday, hmonth⟩ := packedBcd_and_masks h
  have hyear := blkFields_registerImage_year h
  have hb5 : (registerImage t).b5 &&& 0x1F = packedBcd t.month := (or_centuryMask_and _ t.year).trans hmonth
  obtain ⟨hsec', hmin', hhour', ⟨-, hday'⟩, hwday', ⟨-, hmonth'⟩, -⟩ := h
  have back {v b : Byte} (hb : b = packedBcd v) (hv : v.toNat < 160) : bcdDec b = v := by
    rw [hb, bcdDec_packedBcd hv]
  exact (DateTime.mk.injEq ..).mpr ⟨back hsec (by omega), back hmin (by omega), back hhour (by omega),
    back hday (by omega), back hwday (by omega), back hb5 (by omega), hyear⟩

theorem blkFields_of_blkEnc {t : DateTime} {B : RegisterBlock} (h : blkEnc t = some B) : blkFields B = t := by
  obtain ⟨hin, rfl⟩ := (blkEnc_eq_some_iff t B).mp h
  exact blkFields_registerImage hin

/-- Settles O34: the year is read from the bits that encoding sets, so they determine it. -/
theorem centuryPolicy : Obligations.CenturyPolicy := by
  unfold Obligations.CenturyPolicy
  refine ⟨toNat_blkFields_year, fun t B h => ?_, fun t t' B B' h h' hcentury hdigits => ?_⟩
  · obtain ⟨hin, rfl⟩ := (blkEnc_eq_some_iff t B).mp h
    rw [centuryBit_registerImage hin, decide_eq_true_iff]
    exact ⟨Iff.rfl, rfl⟩
  · rw [← blkFields_of_blkEnc h, ← blkFields_of_blkEnc h']
    apply BitVec.eq_of_toNat_eq
    rw [toNat_blkFields_year, toNat_blkFields_year, hcentury, hdigits]

/-! ### Encoding undoes decoding, on the canonical blocks (R154) -/

/-- The Year byte and the century bit come back when the Year byte is canonical: its value is below 100, so it does
not run into the next century. -/
theorem registerImage_blkFields_year {B : RegisterBlock} (h : canonicalBcd B.b6 = true) :
    (2000 ≤ (blkFields B).year.toNat ↔ B.b5.getLsbD 7 = true) ∧
      packedBcd (BitVec.ofNat 8 ((blkFields B).year.toNat % 100)) = B.b6 := by
  have hle : bcdValue B.b6 ≤ 99 := toNat_bcdDec B.b6 ▸ bcdDec_le_of_canonicalBcd h
  have hyear := toNat_blkFields_year B
  have hmod : (blkFields B).year.toNat % 100 = bcdValue B.b6 := by
    split at hyear <;> omega
  rw [hmod, ← bcdDec_eq_ofNat]
  refine ⟨?_, packedBcd_bcdDec h⟩
  split at hyear
  · next hc => exact ⟨fun _ => hc, fun _ => by omega⟩
  · next hc => exact ⟨fun _ => by omega, fun htop => absurd htop hc⟩

/-- A block that is canonical under its masks is the image of what it decodes to. -/
theorem registerImage_blkFields {B : RegisterBlock} (h : CanonicalBlock B) : registerImage (blkFields B) = B := by
  obtain ⟨⟨h0, h1, h2, h3, h4, h5⟩, ⟨c0, c1, c2, c3, c4, c5, c6⟩, -⟩ := h
  have back {b m : Byte} (hm : b &&& m = b) (hc : canonicalBcd b = true) : packedBcd (bcdDec (b &&& m)) = b := by
    rw [hm, packedBcd_bcdDec hc]
  obtain ⟨hcentury, hdigits⟩ := registerImage_blkFields_year c6
  have hb5 : (registerImage (blkFields B)).b5 = B.b5 := calc
    (registerImage (blkFields B)).b5
      = packedBcd (bcdDec (B.b5 &&& 0x1F)) ||| (if 2000 ≤ (blkFields B).year.toNat then 0x80 else 0) := rfl
    _ = (B.b5 &&& 0x1F) ||| (B.b5 &&& 0x80) := by
      rw [packedBcd_bcdDec c5, and_topBit]
      simp only [hcentury]
    _ = B.b5 &&& 0x9F := BitVec.and_or_distrib_left.symm
    _ = B.b5 := h5
  exact (RegisterBlock.mk.injEq ..).mpr ⟨back h0 c0, back h1 c1, back h2 c2, back h3 c3, back h4 c4, hb5, hdigits⟩

/-- The encoder produces canonical blocks only (R136, R149). -/
theorem canonicalBlock_of_blkEnc {t : DateTime} {B : RegisterBlock} (h : blkEnc t = some B) :
    CanonicalBlock B := by
  obtain ⟨h0, h1, h2, h3, h4, h5, h6, -⟩ := encoderWritesOnlyOwnedBits t B h
  have hcanon := encoderImageIsCanonical.2 t B h
  rw [h0, h1, h2, h3, h4, h6] at hcanon
  refine ⟨⟨h0, h1, h2, h3, h4, h5⟩, hcanon, ?_⟩
  rw [blkFields_of_blkEnc h]
  exact ((blkEnc_eq_some_iff t B).mp h).1

/-- Settles O32. Two blocks that differ in a reserved bit of Minutes decode alike; no encoding has day 0. -/
theorem encodeThenDecodeDateTime : Obligations.EncodeThenDecodeDateTime := by
  unfold Obligations.EncodeThenDecodeDateTime
  refine ⟨fun t h => ?_, fun B => ⟨canonicalBlock_of_blkEnc, fun h => ?_⟩,
    ⟨RegisterBlock.zero, { RegisterBlock.zero with b1 := 0x80 }, by decide, by decide⟩,
    ⟨⟨0, 0, 0, 0, 0, 1, 2000⟩, by decide⟩⟩
  · obtain ⟨B, hB⟩ := (blkEnc_isSome_iff t).mpr h
    obtain ⟨-, -, -, -, -, -, -, hvl⟩ := encoderWritesOnlyOwnedBits t B hB
    exact ⟨B, hB, Prod.ext (blkFields_of_blkEnc hB) hvl⟩
  · have ⟨_, _, hin⟩ := h
    exact (blkEnc_eq_some_iff _ _).mpr ⟨hin, registerImage_blkFields h⟩

/-! ### Bits outside the masks (R141, R142, R143) -/

/-- The mask of the month field lies inside 0x9F. -/
theorem monthField_eq_of_and {b b' : Byte} (h : b &&& 0x9F = b' &&& 0x9F) : b &&& 0x1F = b' &&& 0x1F := by
  have field (x : Byte) : x &&& 0x1F = (x &&& 0x9F) &&& 0x1F := (BitVec.and_assoc x 0x9F 0x1F).symm
  rw [field b, h, ← field b']

/-- Settles O35: each field is a function of its masked byte, the year of the Year byte and the century bit. -/
theorem maskedBitsNeverReachFields : Obligations.MaskedBitsNeverReachFields := by
  unfold Obligations.MaskedBitsNeverReachFields
  intro B B'
  refine ⟨fun h0 h1 h2 h3 h4 h5 h6 => ?_, topBit_eq_of_and rfl⟩
  have hmonth := monthField_eq_of_and h5
  have hcentury := topBit_eq_of_and rfl h5
  simp only [blkDec, blkFields, centuryBit, h0, h1, h2, h3, h4, h6, hmonth, hcentury]

end Sys2Proof.Machine
end

section
/-!
PROOFS. The family 42_driver_ops.md. The edges of INIT, READ, WRITE and CLOSE, each as an equation of `exec`; what
they leave unchanged; whole operations as runs composed of them; the transactions a run from EXEC to RESP issues.
-/

namespace Sys2Proof.Machine

/-! ### The edges of R174, one equation each -/

section
variable {s : State}

theorem exec_init_of_exec (hp : s.phase = .exec) : exec .init s = .next (s.issue .initW1) := by
  simp only [exec, execInit, hp]

theorem exec_init_of_initW1 (hp : s.phase = .initW1) :
    exec .init s = await (fun _ u => u.issue .initW2) s := by
  simp only [exec, execInit, hp]

theorem exec_init_of_initW2 (hp : s.phase = .initW2) :
    exec .init s = await (fun _ u => u.respond (.ok .nothing)) s := by
  simp only [exec, execInit, hp]

theorem exec_read_of_exec (hp : s.phase = .exec) : exec .read s = .next (s.issue .rdWait) := by
  simp only [exec, execRead, hp]

theorem exec_read_of_rdWait (hp : s.phase = .rdWait) :
    exec .read s = await (fun B u => ({ u with blk := B }).respond (decodedResponse B)) s := by
  simp only [exec, execRead, hp]

theorem exec_write_of_some {d : DateTime} {B : RegisterBlock} (hp : s.phase = .exec) (hB : blkEnc d = some B) :
    exec (.write d) s = .next (({ s with blk := B }).issue .wrWait) := by
  simp only [exec, execWrite, hp, hB]

theorem exec_write_of_none {d : DateTime} (hp : s.phase = .exec) (hB : blkEnc d = none) :
    exec (.write d) s = .next (s.respond .invalidValue) := by
  simp only [exec, execWrite, hp, hB]

theorem exec_write_of_wrWait {d : DateTime} (hp : s.phase = .wrWait) :
    exec (.write d) s = await (fun _ u => u.respond (.ok .nothing)) s := by
  simp only [exec, execWrite, hp]

theorem exec_close_of_exec (hp : s.phase = .exec) : exec .close s = .next (s.respond (.ok .nothing)) :=
  compute_exec _ hp

/-- Whatever operation waits, an Err ends it with that error (R191). -/
theorem exec_of_err {i : Instr} {e : BusErr} (hw : Waits i s.phase) (hq : s.reqValid = false)
    (ha : s.answer = some (.err e)) : exec i s = .next (s.consume.respond (.busError e)) := by
  obtain ⟨k, hk⟩ := exec_eq_await hw
  rw [hk, await_err hq ha]

end

/-- In EXEC every operation answers, or issues a transaction. -/
theorem exec_of_exec (i : Instr) {s : State} (hp : s.phase = .exec) :
    (∃ r, exec i s = .next (s.respond r)) ∨ ∃ p b, exec i s = .next (({ s with blk := b }).issue p) := by
  have hpure := exec_eq_compute (i := i)
  cases i with
  | bcdenc | bcddec | renc | rdec | close =>
    obtain ⟨r, hr⟩ := hpure (by simp)
    exact .inl ⟨r, by rw [hr, compute_exec r hp]⟩
  | init => exact .inr ⟨_, s.blk, exec_init_of_exec hp⟩
  | read => exact .inr ⟨_, s.blk, exec_read_of_exec hp⟩
  | write d =>
    cases hB : blkEnc d with
    | some B => exact .inr ⟨_, B, exec_write_of_some hp hB⟩
    | none => exact .inl ⟨_, exec_write_of_none hp hB⟩

/-- Outside EXEC and the waiting phases of its own an operation has no edge (R174; log 13). -/
theorem exec_of_no_edge {i : Instr} {s : State} (hp : s.phase ≠ .exec) (hw : ¬ Waits i s.phase) :
    exec i s = .fault .noEdge := by
  have hpure := exec_eq_compute (i := i)
  cases i with
  | bcdenc | bcddec | renc | rdec | close =>
    obtain ⟨r, hr⟩ := hpure (by simp)
    rw [hr, compute]
    split
    · exact absurd ‹_› hp
    all_goals rfl
  | init | read | write d =>
    simp only [exec, execInit, execRead, execWrite]
    split <;> simp_all [Waits]

/-- A waiting phase always takes a step. -/
theorem await_next (k : RegisterBlock → State → State) (s : State) : ∃ t, await k s = .next t := by
  rcases await_cases k s with ⟨_, h⟩ | ⟨_, _, h⟩ | ⟨_, _, _, h⟩ | ⟨_, _, _, h⟩ <;> exact ⟨_, h⟩

/-- Settles O41: where R174 has an edge the operation takes a step, so it does not stop there. -/
theorem noStepWithoutAnEdge : Obligations.NoStepWithoutAnEdge := by
  unfold Obligations.NoStepWithoutAnEdge
  intro i s
  have hedge : exec i s = .fault .noEdge ↔ s.phase ≠ .exec ∧ ¬ Waits i s.phase := by
    refine ⟨fun h => ⟨fun hp => ?_, fun hw => ?_⟩, fun h => exec_of_no_edge h.1 h.2⟩
    · rcases exec_of_exec i hp with ⟨r, hr⟩ | ⟨p, b, hi⟩
      · exact nomatch h.symm.trans hr
      · exact nomatch h.symm.trans hi
    · obtain ⟨k, hk⟩ := exec_eq_await hw
      obtain ⟨t, ht⟩ := await_next k s
      exact nomatch h.symm.trans (hk.trans ht)
  simpa only [Waits, not_or] using hedge

/-! ### The effect of an Ok answer -/

/-- The transaction answered Ok changes only the chip. -/
theorem State.applyWrite_eq (s : State) : s.applyWrite = { s with chip := s.applyWrite.chip } := by
  unfold State.applyWrite
  split <;> rfl

/-- Moving on to the next answer does not look at the chip. -/
theorem State.consume_with_chip (s : State) (m : Memory) :
    ({ s with chip := m } : State).consume = { s.consume with chip := m } := by
  cases ha : s.answers with
  | cons => simp [State.consume, ha]
  | nil => cases ht : s.target <;> simp [State.consume, ha, ht]

/-- After an Ok answer the chip has its effect and the next answer is to come. -/
theorem State.applyWrite_consume (s : State) :
    s.applyWrite.consume = { s.consume with chip := s.applyWrite.chip } := by
  rw [State.applyWrite_eq, State.consume_with_chip]

section
variable {s : State}

/-- T1 clears Control/Status 1. -/
theorem State.applyWrite_chip_of_initW1 (hp : s.phase = .initW1) :
    s.applyWrite.chip = s.chip.write 0x00 0x00 := by
  have hreq : s.request = some t1 := by rw [State.request, hp]; rfl
  rw [State.applyWrite_of_write hreq]
  rfl

/-- T2 clears Control/Status 2. -/
theorem State.applyWrite_chip_of_initW2 (hp : s.phase = .initW2) :
    s.applyWrite.chip = s.chip.write 0x01 0x00 := by
  have hreq : s.request = some t2 := by rw [State.request, hp]; rfl
  rw [State.applyWrite_of_write hreq]
  rfl

/-- T4 stores the block latched. -/
theorem State.applyWrite_chip_of_wrWait (hp : s.phase = .wrWait) :
    s.applyWrite.chip = s.chip.writeBytes 0x02 s.blk.toList := by
  have hreq : s.request = some (t4 s.blk) := by rw [State.request, hp]; rfl
  rw [State.applyWrite_of_write hreq]
  rfl

/-- T3 stores nothing. -/
theorem State.applyWrite_of_rdWait (hp : s.phase = .rdWait) : s.applyWrite = s := by
  have hreq : s.request = some t3 := by rw [State.request, hp]; rfl
  exact State.applyWrite_of_read hreq

/-- With no transaction outstanding nothing is stored. -/
theorem State.applyWrite_of_exec (hp : s.phase = .exec) : s.applyWrite = s := by
  have hreq : s.request = none := by rw [State.request, hp]; rfl
  simp [State.applyWrite, hreq]

end

/-! ### The operations edge by edge -/

/-- Settles O36: the equation of each edge, with the effect of its transaction on the chip. -/
theorem initCompletes : Obligations.InitCompletes := by
  unfold Obligations.InitCompletes
  intro s
  refine ⟨fun hp => exec_init_of_exec hp, fun B hp hq ha => ?_, fun B hp hq ha => ?_,
    fun e hp hq ha => exec_of_err (.inl ⟨rfl, hp⟩) hq ha, fun p => (decode_append 4 p).trans (decodeFields_four p)⟩
  · rw [exec_init_of_initW1 hp, await_ok hq ha, State.applyWrite_consume, State.applyWrite_chip_of_initW1 hp,
      State.issue, State.consume_busLog]
    rfl
  · rw [exec_init_of_initW2 hp, await_ok hq ha, State.applyWrite_consume, State.applyWrite_chip_of_initW2 hp]
    rfl

/-- With VL clear a block decodes to OK. -/
theorem decodedResponse_of_clear {B : RegisterBlock} (h : B.b0 &&& 0x80 = 0) :
    decodedResponse B = .ok (.dateTime (blkFields B)) := by
  rw [decodedResponse_eq, lowVoltageBit, (and_topBit_eq_zero_iff _).mp h]
  rfl

/-- With VL set it decodes to LOW_VOLTAGE. -/
theorem decodedResponse_of_set {B : RegisterBlock} (h : B.b0 &&& 0x80 ≠ 0) :
    decodedResponse B = .lowVoltage (blkFields B) := by
  have hvl : B.b0.getLsbD 7 = true := Bool.eq_true_of_not_eq_false fun hf => h ((and_topBit_eq_zero_iff _).mpr hf)
  rw [decodedResponse_eq, lowVoltageBit, hvl]
  rfl

/-- READ answered Ok latches the bytes and responds with what they decode to. -/
theorem exec_read_of_ok {s : State} {B : RegisterBlock} (hp : s.phase = .rdWait) (hq : s.reqValid = false)
    (ha : s.answer = some (.ok B)) :
    exec .read s = .next (({ s.consume with blk := B }).respond (decodedResponse B)) := by
  rw [exec_read_of_rdWait hp, await_ok hq ha, State.applyWrite_of_rdWait hp]

/-- Settles O38: bit 7 of Seconds selects between the two statuses of what the bytes decode to. -/
theorem readCompletes : Obligations.ReadCompletes := by
  unfold Obligations.ReadCompletes
  intro s
  refine ⟨fun hp => exec_read_of_exec hp,
    fun B hp hq ha => ⟨blkFields B, decodesTo_blkFields B, fun hvl => ?_, fun hvl => ?_⟩,
    fun e hp hq ha => exec_of_err (.inr (.inl ⟨rfl, hp⟩)) hq ha,
    fun p => (decode_append 5 p).trans (decodeFields_five p)⟩
  · rw [exec_read_of_ok hp hq ha, decodedResponse_of_clear hvl]
    rfl
  · rw [exec_read_of_ok hp hq ha, decodedResponse_of_set hvl]
    rfl

/-- `blk_enc` has no value exactly outside the field ranges (R146, R150). -/
theorem blkEnc_eq_none_iff_not_inRange (d : DateTime) : blkEnc d = none ↔ ¬ InRange d := by
  rw [← blkEnc_isSome_iff_inRange, ← Option.ne_none_iff_exists', not_not]

/-- Settles O39: `blk_enc` decides in EXEC, and T4 stores the block latched there. -/
theorem writeCompletes : Obligations.WriteCompletes := by
  unfold Obligations.WriteCompletes
  intro s d
  refine ⟨fun hp hout => exec_write_of_none hp ((blkEnc_eq_none_iff_not_inRange d).mpr hout),
    fun hp hin => exec_write_of_some hp ((blkEnc_eq_some_iff d _).mpr ⟨hin, rfl⟩),
    fun B hp hq ha => ⟨s.chip.writeBytes 0x02 s.blk.toList, ?_, ?_⟩,
    fun e hp hq ha => exec_of_err (.inr (.inr ⟨⟨d, rfl⟩, hp⟩)) hq ha,
    fun p => (decode_append 6 p).trans (decodeFields_six p)⟩
  · rw [exec_write_of_wrWait hp, await_ok hq ha, State.applyWrite_consume, State.applyWrite_chip_of_wrWait hp]
    rfl
  · simp only [Memory.read_writeBytes, RegisterBlock.toList]
    refine ⟨rfl, rfl, rfl, rfl, rfl, rfl, rfl, fun x hx => dif_neg ?_⟩
    simp only [List.length_cons, List.length_nil]
    omega

/-- Settles O42: the one edge of CLOSE is the response. -/
theorem closeCompletes : Obligations.CloseCompletes := by
  unfold Obligations.CloseCompletes
  exact ⟨fun s hp => exec_close_of_exec hp, fun p => (decode_append 7 p).trans (decodeFields_seven p)⟩

/-! ### What the operations leave unchanged -/

/-- The part of a state that no operation with a bus side changes: the command latches, the commands offered, the
input levels, the target and the responses delivered. -/
def State.steady (s : State) : State :=
  { s with
    phase := .idle, blk := RegisterBlock.zero, rsp := .ok .nothing, reqValid := false, chip := [], answers := [],
    draw := 0, busLog := [] }

@[simp] theorem State.transfer_steady (s : State) : s.transfer.steady = s.steady := by
  unfold State.transfer
  split <;> rfl
@[simp] theorem State.applyWrite_steady (s : State) : s.applyWrite.steady = s.steady := by
  rw [State.applyWrite_eq]
  rfl
@[simp] theorem State.consume_steady (s : State) : s.consume.steady = s.steady := by
  cases ha : s.answers with
  | cons => simp [State.consume, ha, State.steady]
  | nil => cases ht : s.target <;> simp [State.consume, ha, ht, State.steady]
@[simp] theorem State.respond_steady (s : State) (r : Response) : (s.respond r).steady = s.steady := rfl
@[simp] theorem State.issue_steady (s : State) (p : Phase) : (s.issue p).steady = s.steady := rfl
@[simp] theorem State.blk_steady (s : State) (b : RegisterBlock) :
    ({ s with blk := b } : State).steady = s.steady := rfl

/-- What an edge of an operation with a bus side can change: outside the steady part, and of the chip what the
outstanding transaction stores. -/
structure Framed (s t : State) : Prop where
  steady : t.steady = s.steady
  chip   : t.chip = s.chip ∨ t.chip = s.applyWrite.chip

/-- A framed state is the one before with the fields outside the steady part replaced. -/
theorem Framed.eq_update {s t : State} (h : Framed s t) :
    t = { s with phase := t.phase, blk := t.blk, rsp := t.rsp, reqValid := t.reqValid, chip := t.chip,
                 answers := t.answers, draw := t.draw, busLog := t.busLog } :=
  congrArg (fun e : State =>
    { e with phase := t.phase, blk := t.blk, rsp := t.rsp, reqValid := t.reqValid, chip := t.chip,
             answers := t.answers, draw := t.draw, busLog := t.busLog }) h.steady

/-- What a waiting phase leads to, when each way out of it does. -/
theorem await_elim {k : RegisterBlock → State → State} {s t : State} {P : State → Prop}
    (h : await k s = .next t) (htransfer : P s.transfer) (hhang : P s)
    (hfail : ∀ e, P (s.consume.respond (.busError e))) (hok : ∀ B, P (k B s.applyWrite.consume)) : P t := by
  rcases await_cases k s with ⟨-, h'⟩ | ⟨-, -, h'⟩ | ⟨-, e, -, h'⟩ | ⟨-, B, -, h'⟩ <;> cases h.symm.trans h'
  · exact htransfer
  · exact hhang
  · exact hfail e
  · exact hok B

/-- A waiting phase whose continuation is framed is framed. -/
theorem await_framed {k : RegisterBlock → State → State} {s t : State}
    (h : await k s = .next t) (hk : ∀ B u, (k B u).steady = u.steady ∧ (k B u).chip = u.chip) : Framed s t :=
  await_elim h ⟨s.transfer_steady, .inl s.transfer_chip⟩ ⟨rfl, .inl rfl⟩ (fun e => ⟨by simp, .inl (by simp)⟩)
    fun B => ⟨by simp [hk], .inr (by simp [hk])⟩

/-- A step of INIT starts in EXEC or in one of its two waits. -/
theorem exec_init_next {s t : State} (h : exec .init s = .next t) :
    (s.phase = .exec ∧ t = s.issue .initW1) ∨
    (s.phase = .initW1 ∧ await (fun _ u => u.issue .initW2) s = .next t) ∨
    (s.phase = .initW2 ∧ await (fun _ u => u.respond (.ok .nothing)) s = .next t) := by
  simp only [exec, execInit] at h
  split at h
  · next hp => cases h; exact .inl ⟨hp, rfl⟩
  · next hp => exact .inr (.inl ⟨hp, h⟩)
  · next hp => exact .inr (.inr ⟨hp, h⟩)
  all_goals cases h

/-- A step of READ starts in EXEC or in its wait. -/
theorem exec_read_next {s t : State} (h : exec .read s = .next t) :
    (s.phase = .exec ∧ t = s.issue .rdWait) ∨
    (s.phase = .rdWait ∧ await (fun B u => ({ u with blk := B }).respond (decodedResponse B)) s = .next t) := by
  simp only [exec, execRead] at h
  split at h
  · next hp => cases h; exact .inl ⟨hp, rfl⟩
  · next hp => exact .inr ⟨hp, h⟩
  all_goals cases h

/-- A step of WRITE starts in EXEC or in its wait. -/
theorem exec_write_next {d : DateTime} {s t : State} (h : exec (.write d) s = .next t) :
    (s.phase = .exec ∧ ((∃ B, t = ({ s with blk := B }).issue .wrWait) ∨ t = s.respond .invalidValue)) ∨
    (s.phase = .wrWait ∧ await (fun _ u => u.respond (.ok .nothing)) s = .next t) := by
  simp only [exec, execWrite] at h
  split at h
  · next hp =>
    split at h <;> cases h
    · exact .inl ⟨hp, .inl ⟨_, rfl⟩⟩
    · exact .inl ⟨hp, .inr rfl⟩
  · next hp => exact .inr ⟨hp, h⟩
  all_goals cases h

theorem exec_init_framed {s t : State} (h : exec .init s = .next t) : Framed s t ∧ t.blk = s.blk := by
  rcases exec_init_next h with ⟨-, rfl⟩ | ⟨-, h⟩ | ⟨-, h⟩
  · exact ⟨⟨rfl, .inl rfl⟩, rfl⟩
  all_goals exact ⟨await_framed h fun _ _ => ⟨rfl, rfl⟩,
    await_elim (P := fun u => u.blk = s.blk) h (by simp) rfl (by simp) (by simp)⟩

theorem exec_read_framed {s t : State} (h : exec .read s = .next t) : Framed s t ∧ t.chip = s.chip := by
  rcases exec_read_next h with ⟨-, rfl⟩ | ⟨hp, h⟩
  · exact ⟨⟨rfl, .inl rfl⟩, rfl⟩
  · have hframed : Framed s t := await_framed h fun _ _ => ⟨rfl, rfl⟩
    have hchip := hframed.chip
    rw [State.applyWrite_of_rdWait hp, or_self] at hchip
    exact ⟨hframed, hchip⟩

theorem exec_write_framed {d : DateTime} {s t : State} (h : exec (.write d) s = .next t) : Framed s t := by
  rcases exec_write_next h with ⟨-, ⟨B, rfl⟩ | rfl⟩ | ⟨-, h⟩
  · exact ⟨rfl, .inl rfl⟩
  · exact ⟨rfl, .inl rfl⟩
  · exact await_framed h fun _ _ => ⟨rfl, rfl⟩

/-- The outstanding transaction stores nothing outside the bytes of its write. -/
theorem State.read_applyWrite_outside {s : State} {x : Nat}
    (hx : ∀ reg bytes, s.request = some (.write reg bytes) →
      ¬ (reg.toNat ≤ x ∧ x < reg.toNat + bytes.length)) : s.applyWrite.chip.read x = s.chip.read x := by
  unfold State.applyWrite
  split
  · next reg bytes hreq => rw [Memory.read_writeBytes, dif_neg (hx reg bytes hreq)]
  · rfl

theorem Framed.read_outside {s t : State} {x : Nat} (h : Framed s t)
    (hx : ∀ reg bytes, s.request = some (.write reg bytes) →
      ¬ (reg.toNat ≤ x ∧ x < reg.toNat + bytes.length)) : t.chip.read x = s.chip.read x := by
  rcases h.chip with hchip | hchip
  · rw [hchip]
  · rw [hchip, State.read_applyWrite_outside hx]

/-- Writing 0x00 at one offset leaves every byte as it was, or 0x00. -/
theorem Memory.read_write_zero (m : Memory) (a x : Nat) :
    (m.write a 0x00).read x = m.read x ∨ (m.write a 0x00).read x = some 0x00 := by
  rw [Memory.read_write]
  split
  · exact .inr rfl
  · exact .inl rfl

/-- INIT stores no byte but 0x00. -/
theorem exec_init_read {s t : State} (h : exec .init s = .next t) (x : Nat) :
    t.chip.read x = s.chip.read x ∨ t.chip.read x = some 0x00 := by
  rcases (exec_init_framed h).1.chip with hchip | hchip
  · exact .inl (by rw [hchip])
  · rw [hchip]
    rcases exec_init_next h with ⟨hp, -⟩ | ⟨hp, -⟩ | ⟨hp, -⟩
    · rw [State.applyWrite_of_exec hp]; exact .inl rfl
    · rw [State.applyWrite_chip_of_initW1 hp]; exact Memory.read_write_zero _ _ x
    · rw [State.applyWrite_chip_of_initW2 hp]; exact Memory.read_write_zero _ _ x

/-- Settles O53. Both waits of INIT are framed and keep `blk`; each of its writes is of one byte 0x00. -/
theorem initFrame : Obligations.InitFrame := by
  unfold Obligations.InitFrame
  intro s t h
  obtain ⟨hframed, hblk⟩ := exec_init_framed h
  have hupdate := hframed.eq_update
  rw [hblk] at hupdate
  exact ⟨hupdate, fun x hx => hframed.read_outside hx, exec_init_read h⟩

/-- Settles O54: READ's wait is framed, and its transaction stores nothing. -/
theorem readFrame : Obligations.ReadFrame := by
  unfold Obligations.ReadFrame
  intro s t h
  obtain ⟨hframed, hchip⟩ := exec_read_framed h
  have hupdate := hframed.eq_update
  rw [hchip] at hupdate
  exact ⟨hupdate, fun x => by rw [hchip]⟩

/-- Settles O55: the wait of WRITE is framed. -/
theorem writeFrame : Obligations.WriteFrame := by
  unfold Obligations.WriteFrame
  intro d s t h
  have hframed := exec_write_framed h
  exact ⟨hframed.eq_update, fun x hx => hframed.read_outside hx⟩

/-! ### Runs -/

/-- A run is followed by a run. -/
theorem run_trans {m n : Nat} {s t u : State} (h : Host.Core.run Sys2Proof.core m s = .next t)
    (h' : Host.Core.run Sys2Proof.core n t = .next u) : Host.Core.run Sys2Proof.core (m + n) s = .next u := by
  induction m generalizing s with
  | zero => cases h; rwa [Nat.zero_add]
  | succ m ih =>
    obtain ⟨v, hstep, hrest⟩ := run_succ_next h
    rw [Nat.add_right_comm]
    exact (run_succ hstep).trans (ih hrest)

/-- A run of one step is the step. -/
theorem run_one {s t : State} (h : step s = .next t) : Host.Core.run Sys2Proof.core 1 s = .next t :=
  run_succ h

/-- What every move keeps, a run keeps. -/
theorem run_keeps {P : State → Prop} (hP : ∀ s t, Move s t → P s → P t) {n : Nat} {s t : State}
    (hrun : Host.Core.run Sys2Proof.core n s = .next t) (hs : P s) : P t := by
  induction n generalizing s with
  | zero => cases hrun; exact hs
  | succ n ih =>
    obtain ⟨u, hstep, hrest⟩ := run_succ_next hrun
    exact ih hrest (hP s u (step_move hstep) hs)

/-- A run only appends to the responses delivered. -/
theorem run_delivered_extends {n : Nat} {s t : State} (hrun : Host.Core.run Sys2Proof.core n s = .next t) :
    s.delivered <+: t.delivered :=
  run_keeps (P := fun u => s.delivered <+: u.delivered) (fun _ _ hm h => h.trans hm.delivered_extends) hrun
    ⟨[], List.append_nil _⟩


/-! ### The transactions of one operation (R176) -/

/-- The transactions still to come when an operation is in a waiting phase or in RESP and the bus answers as it does
in `s`: T2 after T1 succeeds, and nothing else. -/
def StillIssues (s : State) (p : Phase) (l : List Request) : Prop :=
  match p with
  | .initW1 => (l = [t2] ∧ ∃ B, s.answer = some (.ok B)) ∨ (l = [] ∧ ∃ e, s.answer = some (.err e))
  | _       => l = []

/-- The transactions from a state to the response of the operation in flight. In EXEC an operation that does not
answer at once issues its first and goes on in the waiting phase it enters; of IDLE nothing is said. -/
def IssuesToResponse (s : State) (l : List Request) : Prop :=
  match s.phase with
  | .idle => True
  | .exec =>
    (l = [] ∧ ∃ r, Responds s.instr r) ∨
    ∃ p b k, Issues s p b ∧ l = (p.request b).toList ++ k ∧ StillIssues s p k
  | p     => StillIssues s p l

theorem issuesToResponse_of_idle {s : State} {l : List Request} (hp : s.phase = .idle) : IssuesToResponse s l := by
  rw [IssuesToResponse, hp]
  trivial

theorem issuesToResponse_of_exec {s : State} {l : List Request} (hp : s.phase = .exec) :
    IssuesToResponse s l ↔ (l = [] ∧ ∃ r, Responds s.instr r) ∨
      ∃ p b k, Issues s p b ∧ l = (p.request b).toList ++ k ∧ StillIssues s p k := by
  rw [IssuesToResponse, hp]

theorem issuesToResponse_of_resp {s : State} {l : List Request} (hp : s.phase = .resp) :
    IssuesToResponse s l ↔ l = [] := by
  rw [IssuesToResponse, hp]
  rfl

/-- In a waiting phase what is still to come is up to the answer. -/
theorem issuesToResponse_of_waits {s : State} {i : Instr} {l : List Request} (hw : Waits i s.phase) :
    IssuesToResponse s l ↔ StillIssues s s.phase l := by
  rcases hw with ⟨-, hp | hp⟩ | ⟨-, hp⟩ | ⟨-, hp⟩ <;> rw [IssuesToResponse, hp]

/-- What is still to come depends on the environment's place alone. -/
theorem stillIssues_congr {s u : State} (ha : u.answers = s.answers) (ht : u.target = s.target)
    (hd : u.draw = s.draw) (p : Phase) (l : List Request) : StillIssues u p l ↔ StillIssues s p l := by
  obtain ⟨-, hok, herr⟩ := State.answer_congr ha ht hd
  cases p with
  | initW1 => simp only [StillIssues, hok, herr]
  | idle | exec | initW2 | rdWait | wrWait | resp => exact Iff.rfl

/-- An Err ends the operation: nothing more is issued. -/
theorem stillIssues_of_err {s : State} {e : BusErr} (ha : s.answer = some (.err e)) (p : Phase) :
    StillIssues s p [] := by
  cases p with
  | initW1 => exact .inr ⟨rfl, e, ha⟩
  | idle | exec | initW2 | rdWait | wrWait | resp => rfl

/-- A move that delivers no response issues the first of the transactions up to the response of its operation. -/
theorem Move.issuesToResponse {s t : State} {l : List Request} (h : Move s t) (hd : t.delivered = s.delivered)
    (ht : IssuesToResponse t l) : ∃ k, t.busLog = s.busLog ++ k ∧ IssuesToResponse s (k ++ l) := by
  cases h with
  | reset hr hp | accept hr hp => exact ⟨[], by simp, issuesToResponse_of_idle hp⟩
  | take hr hp =>
    cases hq : s.rspReady with
    | true =>
      rw [State.takeResponse_ready hq] at hd
      simp at hd
    | false =>
      rw [State.takeResponse_held hq] at ht ⊢
      exact ⟨[], by simp, ht⟩
  | respond r hr hp hres =>
    cases (issuesToResponse_of_resp rfl).mp ht
    exact ⟨[], by simp, (issuesToResponse_of_exec hp).mpr (.inl ⟨rfl, r, hres⟩)⟩
  | issue p b hr hp his =>
    have hk : StillIssues s p l :=
      (stillIssues_congr (s := s) (u := ({ s with blk := b }).issue p) rfl rfl rfl p l).mp
        ((issuesToResponse_of_waits (i := s.instr) his.waits).mp ht)
    exact ⟨(p.request b).toList, rfl, (issuesToResponse_of_exec hp).mpr (.inr ⟨p, b, l, his, rfl, hk⟩)⟩
  | transfer hr hw =>
    rw [issuesToResponse_of_waits (i := s.instr) (by simpa using hw), State.transfer_phase,
      stillIssues_congr (s := s) (by simp) (by simp) (by simp)] at ht
    exact ⟨[], by simp, (issuesToResponse_of_waits hw).mpr ht⟩
  | hang => exact ⟨[], by simp, ht⟩
  | fail e hr hw hq ha =>
    cases (issuesToResponse_of_resp rfl).mp ht
    exact ⟨[], by simp, (issuesToResponse_of_waits hw).mpr (stillIssues_of_err ha _)⟩
  | second B hr hi hp hq ha =>
    have hl : l = [] := (issuesToResponse_of_waits (.inl ⟨hi, .inr rfl⟩)).mp ht
    subst hl
    refine ⟨[t2], by simp [Phase.request, t2], (issuesToResponse_of_waits (.inl ⟨hi, .inl hp⟩)).mpr ?_⟩
    rw [hp]
    exact .inl ⟨rfl, B, ha⟩
  | done B hr hw =>
    cases (issuesToResponse_of_resp rfl).mp ht
    refine ⟨[], by simp, ?_⟩
    rcases hw with ⟨-, hp⟩ | ⟨-, hp⟩ <;> rw [IssuesToResponse, hp] <;> rfl
  | decoded B hr hi hp =>
    cases (issuesToResponse_of_resp rfl).mp ht
    refine ⟨[], by simp, ?_⟩
    rw [IssuesToResponse, hp]
    rfl

/-- A run to RESP that delivers no response issues the transactions up to the response of its operation. -/
theorem run_issuesToResponse {n : Nat} {s t : State} (hrun : Host.Core.run Sys2Proof.core n s = .next t)
    (hp : t.phase = .resp) (hd : t.delivered = s.delivered) :
    ∃ l, t.busLog = s.busLog ++ l ∧ IssuesToResponse s l := by
  induction n generalizing s with
  | zero => cases hrun; exact ⟨[], by simp, (issuesToResponse_of_resp hp).mpr rfl⟩
  | succ n ih =>
    obtain ⟨u, hstep, hrest⟩ := run_succ_next hrun
    have hm := step_move hstep
    have hdu : u.delivered = s.delivered :=
      (hd ▸ run_delivered_extends hrest).eq_of_length_le hm.delivered_extends.length_le
    obtain ⟨l, hlog, hl⟩ := ih hrest (hd.trans hdu.symm)
    obtain ⟨k, hlog', hk⟩ := hm.issuesToResponse hdu hl
    exact ⟨k ++ l, by rw [hlog, hlog', List.append_assoc], hk⟩

/-- Settles O14, by induction on the run; in EXEC the operation decides what is issued. -/
theorem transactionsPerOperation : Obligations.TransactionsPerOperation := by
  unfold Obligations.TransactionsPerOperation
  intro n s t hp hrun hresp hd
  obtain ⟨l, hlog, hl⟩ := run_issuesToResponse hrun hresp hd
  refine ⟨l, hlog, ?_⟩
  rcases (issuesToResponse_of_exec hp).mp hl with ⟨rfl, r, hr⟩ | ⟨p, b, k, his, rfl, hk⟩
  · cases hi : s.instr with
    | bcdenc | bcddec | renc | rdec | close => rfl
    | init | read => rw [hi] at hr; exact hr.elim
    | write d =>
      rw [hi] at hr
      exact .inr ⟨(blkEnc_eq_none_iff_not_inRange d).mp hr.1, rfl⟩
  · unfold Issues at his
    split at his
    · next hi =>
      obtain ⟨rfl, -⟩ := his
      rw [hi]
      rcases hk with ⟨rfl, hok⟩ | ⟨rfl, herr⟩
      · exact .inl ⟨rfl, hok⟩
      · exact .inr ⟨rfl, herr⟩
    · next hi =>
      obtain ⟨rfl, -⟩ := his
      rw [hi]
      cases hk
      rfl
    · next d hi =>
      obtain ⟨rfl, hb⟩ := his
      rw [hi]
      cases hk
      exact .inl ⟨(blkEnc_isSome_iff_inRange d).mp ⟨b, hb⟩, b, hb, rfl⟩
    all_goals exact his.elim


/-! ### Whole operations -/

/-- A host and a transport that do their part go on doing it: no move changes an input level (log 10). -/
theorem Move.willing {s t : State} (h : Move s t) (hw : s.Willing) : t.Willing := by
  unfold State.Willing at hw ⊢
  cases h <;> simpa using hw

/-- A waiting operation with a willing transport: the offered request transfers. -/
theorem step_transfer {s : State} (hw : s.Willing) (hwait : Waits s.instr s.phase) (hq : s.reqValid = true) :
    step s = .next { s with reqValid := false } := by
  obtain ⟨hr, -, hready⟩ := hw
  rw [move_step (.transfer hr hwait hq), State.transfer_ready hready]

/-- From EXEC an operation issues its first transaction, and the request transfers. -/
theorem run_issue {s : State} {p : Phase} {b : RegisterBlock} (hw : s.Willing) (hp : s.phase = .exec)
    (h : Issues s p b) :
    Host.Core.run Sys2Proof.core 2 s = .next { ({ s with blk := b }).issue p with reqValid := false } := by
  have hissue : step s = .next (({ s with blk := b }).issue p) := move_step (.issue p b hw.1 hp h)
  exact (run_succ hissue).trans (run_one (step_transfer (s := ({ s with blk := b }).issue p) hw h.waits rfl))

/-- A whole command, from its acceptance to the delivery of its response, around the run of its operation. -/
theorem run_command {n : Nat} {s t : State} {c : Command} {cs : List Command} (hw : s.Willing)
    (hp : s.phase = .idle) (hc : s.cmds = c :: cs)
    (hrun : Host.Core.run Sys2Proof.core n (({ s with cmds := cs }).latch c) = .next t) (ht : t.phase = .resp) :
    Host.Core.run Sys2Proof.core (n + 2) s =
      .next { t.blockReset with delivered := t.delivered ++ [t.rsp] } := by
  have haccept : step s = .next (({ s with cmds := cs }).latch c) := by
    rw [step_idle hw.1 hp, State.accept_cons hc]
  obtain ⟨hrst, hready, -⟩ : t.Willing :=
    run_keeps (P := State.Willing) (fun _ _ hm h => hm.willing h) hrun hw
  have htake : step t = .next { t.blockReset with delivered := t.delivered ++ [t.rsp] } := by
    rw [step_resp hrst ht, State.takeResponse_ready hready]
  exact (run_succ haccept).trans (run_trans hrun (run_one htake))

/-- Settles O43: between acceptance and delivery CLOSE takes one step. -/
theorem closeChangesNothing : Obligations.CloseChangesNothing := by
  unfold Obligations.CloseChangesNothing
  intro s c cs hw hp hc hcode
  have hi : (({ s with cmds := cs }).latch c).instr = .close := by
    rw [State.latch_instr, decode, hcode, decodeFields_seven]
  have hrespond : Responds (({ s with cmds := cs }).latch c).instr (.ok .nothing) := by rw [hi]; rfl
  exact run_command hw hp hc (run_one (move_step (.respond _ hw.1 rfl hrespond))) rfl

/-! ### A whole INIT (R160 to R162) -/

/-- A given answer that is Ok carries some bytes. -/
theorem State.answer_of_isOk {s : State} {a : Answer} {as : List Answer} (h : s.answers = a :: as)
    (hok : a.isOk = true) : ∃ B, s.answer = some (.ok B) := by
  cases a with
  | stored =>
    obtain ⟨B, hB⟩ := s.storeAnswer_ok
    exact ⟨B, by rw [State.answer_stored h, hB]⟩
  | bytes B => exact ⟨B, State.answer_bytes h⟩
  | err | never => cases hok

/-- After an Ok answer given in advance the chip has its effect and the answer is used up. -/
theorem State.applyWrite_consume_cons {s : State} {a : Answer} {as : List Answer} (h : s.answers = a :: as) :
    s.applyWrite.consume = { s with chip := s.applyWrite.chip, answers := as } := by
  rw [State.applyWrite_consume, State.consume_cons h]

/-- An INIT that waits for the answer to T1. -/
def State.awaitsFirst (s : State) : State :=
  { s with phase := .initW1, reqValid := false, busLog := s.busLog ++ [t1] }

/-- An INIT that waits for the answer to T2, T1 having succeeded, with these answers to come. -/
def State.awaitsSecond (s : State) (as : List Answer) : State :=
  { s with
    phase := .initW2, reqValid := false, busLog := s.busLog ++ [t1] ++ [t2], chip := s.chip.write 0x00 0x00,
    answers := as }

section
variable {s : State} (hw : s.Willing) (hi : s.instr = .init)
include hw hi

/-- T1 answered Ok: T2 is offered. -/
theorem step_init_first_ok {a : Answer} {as : List Answer} (hp : s.phase = .initW1) (hq : s.reqValid = false)
    (ha : s.answers = a :: as) (hok : a.isOk = true) :
    step s = .next { s with
      phase := .initW2, reqValid := true, busLog := s.busLog ++ [t2], chip := s.chip.write 0x00 0x00,
      answers := as } := by
  obtain ⟨B, hB⟩ := State.answer_of_isOk ha hok
  rw [move_step (.second B hw.1 hi hp hq hB), State.applyWrite_consume_cons ha, State.applyWrite_chip_of_initW1 hp]
  rfl

/-- T2 answered Ok: INIT has succeeded. -/
theorem step_init_second_ok {a : Answer} {as : List Answer} (hp : s.phase = .initW2) (hq : s.reqValid = false)
    (ha : s.answers = a :: as) (hok : a.isOk = true) :
    step s = .next { s with
      phase := .resp, rsp := .ok .nothing, chip := s.chip.write 0x01 0x00, answers := as } := by
  obtain ⟨B, hB⟩ := State.answer_of_isOk ha hok
  rw [move_step (.done B hw.1 (.inl ⟨hi, hp⟩) hq hB), State.applyWrite_consume_cons ha,
    State.applyWrite_chip_of_initW2 hp]
  rfl

/-- T1 or T2 answered Err: INIT has failed. -/
theorem step_init_err {e : BusErr} {as : List Answer} (hp : s.phase = .initW1 ∨ s.phase = .initW2)
    (hq : s.reqValid = false) (ha : s.answers = .err e :: as) :
    step s = .next { s with phase := .resp, rsp := .busError e, answers := as } := by
  rw [move_step (.fail e hw.1 (.inl ⟨hi, hp⟩) hq (State.answer_err ha)), State.consume_cons ha]
  rfl

/-- INIT up to the wait for the answer to T1. -/
theorem run_init_first (hp : s.phase = .exec) :
    Host.Core.run Sys2Proof.core 2 s = .next s.awaitsFirst :=
  run_issue hw hp (b := s.blk) (by simp [Issues, hi])

/-- INIT whose T1 succeeds, up to the wait for the answer to T2. -/
theorem run_init_second {a : Answer} {as : List Answer} (hp : s.phase = .exec) (ha : s.answers = a :: as)
    (hok : a.isOk = true) :
    Host.Core.run Sys2Proof.core 4 s = .next (s.awaitsSecond as) := by
  have hsecond := step_init_first_ok (s := s.awaitsFirst) hw hi rfl rfl ha hok
  have htransfer := step_transfer (s := { s.awaitsSecond as with reqValid := true }) hw (.inl ⟨hi, .inr rfl⟩) rfl
  exact run_trans (run_init_first hw hi hp) ((run_succ hsecond).trans (run_one htransfer))

end

/-- Settles O37: T1 failing, and the two outcomes of T2 after it. -/
theorem initRunsBothWrites : Obligations.InitRunsBothWrites := by
  unfold Obligations.InitRunsBothWrites
  intro s hw hp _ hi
  refine ⟨fun a a' rest ha hok hok' => ?_, fun e rest ha => ?_, fun a e rest ha hok => ?_⟩
  · have hdone := step_init_second_ok (s := s.awaitsSecond (a' :: rest)) hw hi rfl rfl rfl hok'
    refine ⟨_, run_trans (run_init_second hw hi hp ha hok) (run_one hdone), rfl, rfl,
      List.append_assoc _ _ _, rfl, fun x => ?_⟩
    simp only [State.awaitsSecond, Memory.read_write, or_comm (a := x = 0), ite_or]
  · have hfail := step_init_err (s := s.awaitsFirst) hw hi (.inl rfl) rfl ha
    exact ⟨_, run_trans (run_init_first hw hi hp) (run_one hfail), rfl, rfl, rfl, rfl, rfl⟩
  · have hfail := step_init_err (s := s.awaitsSecond (.err e :: rest)) hw hi (.inr rfl) rfl rfl
    exact ⟨_, run_trans (run_init_second hw hi hp ha hok) (run_one hfail), rfl, rfl,
      List.append_assoc _ _ _, rfl, Memory.read_write _ _ _⟩

/-! ### WRITE and READ on StoreBus (R71, R171) -/

/-- StoreBus answers every transaction: no answer given in advance comes before it. -/
def State.OnStoreBus (s : State) : Prop := s.answers = [] ∧ s.target = .storeBus

/-- StoreBus keeps no place. -/
theorem State.OnStoreBus.consume {s : State} (h : s.OnStoreBus) : s.consume = s := by
  obtain ⟨ha, ht⟩ := h
  simp [State.consume, ha, ht]

/-- A block that has stored `B` by a WRITE and is idle again, with these commands still offered. -/
def State.afterWrite (s : State) (B : RegisterBlock) (cs : List Command) : State :=
  { s.blockReset with
    cmds := cs, busLog := s.busLog ++ [t4 B], chip := s.chip.writeBytes 0x02 B.toList,
    delivered := s.delivered ++ [.ok .nothing] }

/-- To a read StoreBus delivers the stored time block. -/
theorem State.storeAnswer_of_rdWait {s : State} (hp : s.phase = .rdWait) :
    s.storeAnswer = .ok (s.chip.presentBlock 0x02) := by
  have hreq : s.request = some t3 := by rw [State.request, hp]; rfl
  rw [State.storeAnswer, hreq]
  rfl

section
variable {s : State} (hw : s.Willing) (hs : s.OnStoreBus)
include hw hs

/-- StoreBus answers T4: the block latched is stored. -/
theorem State.OnStoreBus.step_write {d : DateTime} (hi : s.instr = .write d) (hp : s.phase = .wrWait)
    (hq : s.reqValid = false) :
    step s = .next { s with
      phase := .resp, rsp := .ok .nothing, chip := s.chip.writeBytes 0x02 s.blk.toList } := by
  obtain ⟨B, hB⟩ := s.storeAnswer_ok
  have hanswer : s.answer = some (.ok B) := by rw [State.answer_storeBus hs.1 hs.2, hB]
  rw [move_step (.done B hw.1 (.inr ⟨⟨d, hi⟩, hp⟩) hq hanswer), State.applyWrite_consume, hs.consume,
    State.applyWrite_chip_of_wrWait hp]
  rfl

/-- StoreBus answers T3: READ responds with what the time block decodes to. -/
theorem State.OnStoreBus.step_read (hi : s.instr = .read) (hp : s.phase = .rdWait) (hq : s.reqValid = false) :
    step s = .next { s with
      phase := .resp, rsp := decodedResponse (s.chip.presentBlock 0x02), blk := s.chip.presentBlock 0x02 } := by
  have hanswer : s.answer = some (.ok (s.chip.presentBlock 0x02)) := by
    rw [State.answer_storeBus hs.1 hs.2, State.storeAnswer_of_rdWait hp]
  rw [move_step (.decoded _ hw.1 hi hp hq hanswer), State.applyWrite_of_rdWait hp, hs.consume]
  rfl

/-- A whole WRITE on StoreBus stores the encoded DateTime. -/
theorem State.OnStoreBus.run_write {d : DateTime} {B : RegisterBlock} {cs : List Command} (hp : s.phase = .idle)
    (hc : s.cmds = encode (.write d) :: cs) (hB : blkEnc d = some B) :
    Host.Core.run Sys2Proof.core 5 s = .next (s.afterWrite B cs) := by
  have hi : (({ s with cmds := cs }).latch (encode (.write d))).instr = .write d := (decodeAfterEncode _).2
  have hissue := run_issue (s := ({ s with cmds := cs }).latch (encode (.write d))) (p := .wrWait) (b := B) hw rfl
    (by rw [Issues, hi]; exact ⟨rfl, hB⟩)
  exact run_command hw hp hc (run_trans hissue (run_one (State.OnStoreBus.step_write hw hs hi rfl rfl))) rfl

/-- A whole READ on StoreBus delivers what the time block of the chip decodes to. -/
theorem State.OnStoreBus.run_read {cs : List Command} (hp : s.phase = .idle) (hc : s.cmds = encode .read :: cs) :
    Host.Core.run Sys2Proof.core 5 s = .next { s.blockReset with
      cmds := cs, busLog := s.busLog ++ [t3],
      delivered := s.delivered ++ [decodedResponse (s.chip.presentBlock 0x02)] } := by
  have hi : (({ s with cmds := cs }).latch (encode .read)).instr = .read := (decodeAfterEncode _).2
  have hissue := run_issue (s := ({ s with cmds := cs }).latch (encode .read)) (p := .rdWait) (b := s.blk) hw rfl
    (by rw [Issues, hi]; exact ⟨rfl, rfl⟩)
  exact run_command hw hp hc (run_trans hissue (run_one (State.OnStoreBus.step_read hw hs hi rfl rfl))) rfl

end

/-- An encoded DateTime decodes to OK with that DateTime (R154). -/
theorem decodedResponse_of_blkEnc {d : DateTime} {B : RegisterBlock} (h : blkEnc d = some B) :
    decodedResponse B = .ok (.dateTime d) := by
  obtain ⟨-, -, -, -, -, -, -, hvl⟩ := encoderWritesOnlyOwnedBits d B h
  rw [decodedResponse_of_clear ((and_topBit_eq_zero_iff _).mpr hvl), blkFields_of_blkEnc h]

/-- Settles O50: READ finds in the chip the block that WRITE stored, and decodes it. -/
theorem writeThenReadOnStoreBus : Obligations.WriteThenReadOnStoreBus := by
  unfold Obligations.WriteThenReadOnStoreBus
  intro s d rest hw hp hanswers htarget hvalid hc
  have hs : s.OnStoreBus := ⟨hanswers, htarget⟩
  obtain ⟨B, hB⟩ := (blkEnc_isSome_iff d).mpr hvalid
  have hread := State.OnStoreBus.run_read (s := s.afterWrite B (encode .read :: rest)) hw hs rfl rfl
  refine ⟨_, run_trans (hs.run_write hw hp hc hB) hread, rfl, rfl, ?_⟩
  rw [State.afterWrite, Memory.presentBlock_writeBytes, decodedResponse_of_blkEnc hB, List.append_assoc]
  rfl

end Sys2Proof.Machine
end

section
/-!
PROOFS. The family 60_exceptions.md. The steps that produce a response are said once, as `Ends`, from the cases of
`Move`; which statuses each of them can give (R191 to R194) and in what order (R198) is then a case analysis over it.
-/

namespace Sys2Proof.Machine

/-! ### The statuses of a decoded block and of a response from EXEC -/

/-- A block decodes to LOW_VOLTAGE only with Seconds bit 7 set (R192). -/
theorem lowVoltageBit_of_decodedResponse_eq_lowVoltage {B : RegisterBlock} {d : DateTime}
    (h : decodedResponse B = .lowVoltage d) : lowVoltageBit B = true := by
  rw [decodedResponse_eq] at h
  cases hv : lowVoltageBit B with
  | true => rfl
  | false => simp [hv] at h

/-- A block decodes to OK only with Seconds bit 7 clear (R166). -/
theorem lowVoltageBit_of_decodedResponse_eq_ok {B : RegisterBlock} {v : Result}
    (h : decodedResponse B = .ok v) : lowVoltageBit B = false := by
  rw [decodedResponse_eq] at h
  cases hv : lowVoltageBit B with
  | true => simp [hv] at h
  | false => rfl

/-- Decoding raises no BUS_ERROR. -/
theorem decodedResponse_ne_busError (B : RegisterBlock) (e : BusErr) : decodedResponse B ≠ .busError e := by
  rw [decodedResponse_eq]
  cases lowVoltageBit B <;> nofun

/-- Decoding raises no INVALID_VALUE: what is read is not validated (R153). -/
theorem decodedResponse_ne_invalidValue (B : RegisterBlock) : decodedResponse B ≠ .invalidValue := by
  rw [decodedResponse_eq]
  cases lowVoltageBit B <;> nofun

/-- In EXEC, where no transaction has been issued, no operation responds BUS_ERROR. -/
theorem Responds.ne_busError {i : Instr} {r : Response} (h : Responds i r) (e : BusErr) : r ≠ .busError e := by
  cases i with
  | init | read => exact h.elim
  | bcdenc | renc => rcases h with ⟨_, _, rfl⟩ | ⟨_, rfl⟩ <;> nofun
  | bcddec | close => cases h; nofun
  | rdec B => cases h; exact decodedResponse_ne_busError B e
  | write => obtain ⟨_, rfl⟩ := h; nofun

/-- From EXEC only RDEC responds LOW_VOLTAGE, for a block with Seconds bit 7 set. -/
theorem Responds.rdec_of_lowVoltage {i : Instr} {d : DateTime} (h : Responds i (.lowVoltage d)) :
    ∃ B, i = .rdec B ∧ B.b0.getLsbD 7 = true := by
  cases i with
  | rdec B =>
    have hB : decodedResponse B = .lowVoltage d := Eq.symm h
    exact ⟨B, rfl, lowVoltageBit_of_decodedResponse_eq_lowVoltage hB⟩
  | bcdenc | bcddec | renc | init | read | write | close => simp [Responds] at h

/-! ### The steps that produce a response -/

/-- The ways a step produces a response (R96, R196): from EXEC, on a failing transaction, on the last Ok of an INIT
or a WRITE, and on the Ok of a READ. -/
inductive Ends (s : State) : State → Prop where
  | respond (r : Response) (hp : s.phase = .exec) (h : Responds s.instr r) : Ends s (s.respond r)
  | fail (e : BusErr) (hw : Waits s.instr s.phase) (hq : s.reqValid = false)
      (ha : s.answer = some (.err e)) : Ends s (s.consume.respond (.busError e))
  | done (hw : (s.instr = .init ∧ s.phase = .initW2) ∨ ((∃ d, s.instr = .write d) ∧ s.phase = .wrWait)) :
      Ends s (s.applyWrite.consume.respond (.ok .nothing))
  | decoded (B : RegisterBlock) (hi : s.instr = .read) (ha : s.answer = some (.ok B)) :
      Ends s (({ s.applyWrite.consume with blk := B }).respond (decodedResponse B))

/-- A move that enters RESP produces a response in one of these ways. -/
theorem Move.ends {s t : State} (h : Move s t) (hs : s.phase ≠ .resp) (ht : t.phase = .resp) : Ends s t := by
  cases h with
  | respond r hr hp h => exact .respond r hp h
  | fail e hr hw hq ha => exact .fail e hw hq ha
  | done B hr hw => exact .done hw
  | decoded B hr hi hp hq ha => exact .decoded B hi ha
  | reset => cases ht
  | accept hr hp =>
    cases hc : s.cmds with
    | nil => rw [State.accept_nil hc] at ht; exact absurd ht hs
    | cons c cs => rw [State.accept_cons hc] at ht; cases ht
  | take hr hp => exact absurd hp hs
  | issue p b hr hp h =>
    have hw : Waits s.instr p := h.waits
    rw [State.issue_phase] at ht
    simp [Waits, ht] at hw
  | transfer => exact absurd (s.transfer_phase.symm.trans ht) hs
  | hang => exact absurd ht hs
  | second => cases ht

/-- The response of a READ is its transaction's error, or what the bytes latched in `blk` decode to (R164, R165). -/
theorem Ends.rsp_of_read {s t : State} (h : Ends s t) (hi : s.instr = .read) :
    (∃ e, t.rsp = .busError e) ∨ t.rsp = decodedResponse t.blk := by
  cases h with
  | respond r hp h => rw [hi] at h; exact h.elim
  | fail e => exact .inl ⟨e, rfl⟩
  | done hw => simp [hi] at hw
  | decoded B => exact .inr rfl

/-- A response produced from a consistent state is one its operation can report (R194). -/
theorem Ends.canReport {s t : State} (h : Ends s t) (hc : s.Consistent) : CanReport s.instr t.rsp := by
  cases h with
  | respond r hp h => exact h.canReport
  | fail e hw => exact hc.canReport_busError hw e
  | done hw => exact hc.canReport_ok hw
  | decoded B hi => rw [hi]; exact canReport_decodedResponse B

/-- BUS_ERROR is produced only by a transferred transaction that was answered with that error (R191). -/
theorem Ends.of_busError {s t : State} {e : BusErr} (h : Ends s t) (hrsp : t.rsp = .busError e) :
    s.outstanding = true ∧ s.reqValid = false ∧ s.answer = some (.err e) := by
  cases h with
  | respond r hp h => exact absurd hrsp (h.ne_busError e)
  | fail e' hw hq ha =>
    cases hrsp
    obtain ⟨-, -, ho⟩ := hw.running
    exact ⟨ho, hq, ha⟩
  | done => cases hrsp
  | decoded B => exact absurd hrsp (decodedResponse_ne_busError B e)

/-- LOW_VOLTAGE is produced only by the decoding of a block with Seconds bit 7 set: RDEC's operand, or the bytes of
a READ that was answered Ok (R192). -/
theorem Ends.of_lowVoltage {s t : State} {d : DateTime} (h : Ends s t) (hrsp : t.rsp = .lowVoltage d) :
    (∃ B, s.instr = .rdec B ∧ B.b0.getLsbD 7 = true) ∨
      (s.instr = .read ∧ ∃ B, s.answer = some (.ok B) ∧ B.b0.getLsbD 7 = true) := by
  cases h with
  | respond r hp h => cases hrsp; exact .inl h.rdec_of_lowVoltage
  | fail => cases hrsp
  | done => cases hrsp
  | decoded B hi ha => exact .inr ⟨hi, B, ha, lowVoltageBit_of_decodedResponse_eq_lowVoltage hrsp⟩

/-- INVALID_VALUE is produced only in EXEC, and nothing is issued with it (R193). -/
theorem Ends.of_invalidValue {s t : State} (h : Ends s t) (hrsp : t.rsp = .invalidValue) :
    s.phase = .exec ∧ t.busLog = s.busLog := by
  cases h with
  | respond r hp => exact ⟨hp, rfl⟩
  | fail => cases hrsp
  | done => cases hrsp
  | decoded B => exact absurd hrsp (decodedResponse_ne_invalidValue B)

/-! ### The obligations -/

/-- Settles O17: the statuses by the ways a response is produced; in a READ, by what the bytes in `blk` decode to. -/
theorem responsesFollowTheTable : Obligations.ResponsesFollowTheTable := by
  unfold Obligations.ResponsesFollowTheTable
  intro s t hc hstep hs ht
  have hends : Ends s t := (step_move hstep).ends hs ht
  refine ⟨hends.canReport hc, fun d hi hrsp => ?_, fun d hi hrsp => ?_⟩ <;>
    rcases hends.rsp_of_read hi with ⟨e, he⟩ | hdec
  · cases hrsp.symm.trans he
  · exact lowVoltageBit_of_decodedResponse_eq_lowVoltage (hdec.symm.trans hrsp)
  · cases hrsp.symm.trans he
  · exact lowVoltageBit_of_decodedResponse_eq_ok (hdec.symm.trans hrsp)

/-- Settles O44: a consistent outstanding transaction is waited for by its operation, which an Err ends; and no
other way to produce a response gives BUS_ERROR. -/
theorem busErrorIsTheTransactionsError : Obligations.BusErrorIsTheTransactionsError := by
  unfold Obligations.BusErrorIsTheTransactionsError
  exact ⟨fun s e hc hr ho hq ha => ⟨_, move_step (.fail e hr (hc.waits ho) hq ha), rfl, rfl⟩,
    fun s t e hstep hs ht hrsp => ((step_move hstep).ends hs ht).of_busError hrsp⟩

/-- Settles O45: each condition by the one place it can arise. -/
theorem conditionPriority : Obligations.ConditionPriority := by
  unfold Obligations.ConditionPriority
  refine ⟨fun s d hr hp hi hout => ?_,
    fun s e hp hq ha => ⟨_, exec_of_err (.inr (.inl ⟨rfl, hp⟩)) hq ha, rfl, rfl⟩,
    fun s u d hstep hs hu hrsp => ((step_move hstep).ends hs hu).of_lowVoltage hrsp,
    fun s u hstep hs hu hrsp => ((step_move hstep).ends hs hu).of_invalidValue hrsp⟩
  have hres : Responds s.instr .invalidValue := by
    rw [hi]
    exact ⟨(blkEnc_eq_none_iff_not_inRange d).mpr hout, rfl⟩
  exact ⟨_, move_step (.respond _ hr hp hres), rfl, rfl, rfl⟩

/-- Settles O46: the response goes to the record of those delivered and to no other field. -/
theorem conditionLeavesNoTrace : Obligations.ConditionLeavesNoTrace := by
  unfold Obligations.ConditionLeavesNoTrace
  intro s hr hready hp
  have htake : ∀ r : Response, step { s with rsp := r } =
      .next { s.blockReset with delivered := s.delivered ++ [r] } := fun r => by
    rw [step_resp (s := { s with rsp := r }) hr hp, State.takeResponse_ready (s := { s with rsp := r }) hready]
    rfl
  exact ⟨_, htake s.rsp, rfl, rfl, rfl, rfl, rfl, rfl, rfl, rfl, htake⟩

end Sys2Proof.Machine
end

section
/-!
PROOFS. The family 70_reset_and_hazards.md. What makes the block idle and what it does after reset; a wait without an
answer; the number of steps an operation needs when its answers come, said as `EndsWithin` phase by phase from the last.
-/

namespace Sys2Proof.Machine

/-! ### Reset (R220 to R222) -/

/-- The only edge of R174 into IDLE is the one from RESP. -/
theorem Edge.eq_resp_of_idle {i : Instr} {p : Phase} (h : Edge i p .idle) : p = .resp := by
  cases p with
  | resp => rfl
  | idle | exec | initW1 | initW2 | rdWait | wrWait => exact h.elim

/-- Settles O20: the reset edge is the whole reset, and a step that changes `phase` takes an edge of R174. -/
theorem resetTouchesOnlyTheBlock : Obligations.ResetTouchesOnlyTheBlock := by
  unfold Obligations.ResetTouchesOnlyTheBlock
  refine ⟨fun s hr hp => ⟨_, move_step (.reset hr hp), rfl, rfl, rfl, rfl, rfl, rfl, rfl, rfl⟩,
    fun s t _ hresp hstep ht => ?_⟩
  rcases phaseMovesAlongListedEdges s t hstep with hstay | hedge
  · exact hstay.symm.trans ht
  · rw [ht] at hedge
    exact absurd hedge.eq_resp_of_idle hresp

/-- Settles O22: the acceptance is the whole step from reset, and the operation latched runs next. -/
theorem firstCommandAfterReset : Obligations.FirstCommandAfterReset := by
  unfold Obligations.FirstCommandAfterReset
  refine ⟨?_, fun c cs => ⟨({ State.reset with cmds := cs }).latch c, ?_, rfl, rfl, ?_⟩⟩
  · rw [step_idle rfl rfl, State.accept_nil rfl]
  · rw [step_idle rfl rfl, State.accept_cons rfl]
  · exact step_running rfl nofun nofun

/-! ### A transaction without an answer (R232; log 11) -/

/-- A state that steps to itself is where every run from it ends. -/
theorem run_of_step_self {s : State} (h : step s = .next s) (n : Nat) :
    Host.Core.run Sys2Proof.core n s = .next s := by
  induction n with
  | zero => rfl
  | succ n ih => exact (run_succ h).trans ih

/-- Settles O47: a consistent outstanding transaction is waited for, and its wait without an answer is a step to
the same state. -/
theorem hungTransactionStaysForEver : Obligations.HungTransactionStaysForEver := by
  unfold Obligations.HungTransactionStaysForEver
  intro s hc hr ho hq ha
  exact run_of_step_self (move_step (.hang hr (hc.waits ho) hq ha))

/-! ### An operation whose transactions are answered (R232, R236; log 1) -/

/-- At most `n` steps lead to a state in RESP, with no response delivered on the way. -/
def EndsWithin (n : Nat) (s : State) : Prop :=
  ∃ m t, m ≤ n ∧ Host.Core.run Sys2Proof.core m s = .next t ∧ t.phase = .resp ∧ t.delivered = s.delivered

/-- A bound on the steps can be raised. -/
theorem EndsWithin.mono {m n : Nat} {s : State} (h : EndsWithin m s) (hmn : m ≤ n) : EndsWithin n s := by
  obtain ⟨k, t, hk, ht⟩ := h
  exact ⟨k, t, hk.trans hmn, ht⟩

/-- The steps of a run that delivers nothing are added. -/
theorem EndsWithin.after {m n : Nat} {s t : State} (hrun : Host.Core.run Sys2Proof.core m s = .next t)
    (hd : t.delivered = s.delivered) (h : EndsWithin n t) : EndsWithin (m + n) s := by
  obtain ⟨k, u, hk, hrest, hp, hdu⟩ := h
  exact ⟨m + k, u, Nat.add_le_add_left hk m, run_trans hrun hrest, hp, hdu.trans hd⟩

/-- A step into RESP that delivers nothing is one step. -/
theorem EndsWithin.of_step {s t : State} (hstep : step s = .next t) (hp : t.phase = .resp)
    (hd : t.delivered = s.delivered) : EndsWithin 1 s :=
  ⟨1, t, le_rfl, run_one hstep, hp, hd⟩

/-- An answer that comes comes in every state with the environment at the same place. -/
theorem State.answer_ne_none_of_env_eq {s t : State} (h : s.answer ≠ none) (ha : t.answers = s.answers)
    (ht : t.target = s.target) (hd : t.draw = s.draw) : t.answer ≠ none :=
  fun hn => h ((State.answer_congr ha ht hd).1.mp hn)

section
variable {s : State} (hw : s.Willing) (hwait : Waits s.instr s.phase) (hq : s.reqValid = false)
  (ha : s.answer ≠ none)
include hw hwait hq ha

/-- The answer to the last transaction of an operation ends it, whether Ok or Err. -/
theorem endsWithin_one_of_last (hp : s.phase ≠ .initW1) : EndsWithin 1 s := by
  obtain ⟨res, hres⟩ := Option.ne_none_iff_exists'.mp ha
  cases res with
  | err e => exact .of_step (move_step (.fail e hw.1 hwait hq hres)) rfl (by simp)
  | ok B =>
    rcases hwait with ⟨hi, hp1 | hp2⟩ | ⟨hi, hp3⟩ | ⟨hi, hp4⟩
    · exact absurd hp1 hp
    · exact .of_step (move_step (.done B hw.1 (.inl ⟨hi, hp2⟩) hq hres)) rfl (by simp)
    · exact .of_step (move_step (.decoded B hw.1 hi hp3 hq hres)) rfl (by simp)
    · exact .of_step (move_step (.done B hw.1 (.inr ⟨hi, hp4⟩) hq hres)) rfl (by simp)

/-- T1 answered Err ends INIT at once; answered Ok it leads through the transfer of T2 to the answer to T2. -/
theorem endsWithin_three_of_initW1 (hp : s.phase = .initW1) (ha' : s.consume.answer ≠ none) : EndsWithin 3 s := by
  obtain ⟨res, hres⟩ := Option.ne_none_iff_exists'.mp ha
  cases res with
  | err e => exact (EndsWithin.of_step (move_step (.fail e hw.1 hwait hq hres)) rfl (by simp)).mono (by decide)
  | ok B =>
    have hi : s.instr = .init := by simpa [Waits, hp] using hwait
    have hsecond : Move s (s.applyWrite.consume.issue .initW2) := .second B hw.1 hi hp hq hres
    have hw2 : (s.applyWrite.consume.issue .initW2).Willing := hsecond.willing hw
    have hwait2 : Waits (s.applyWrite.consume.issue .initW2).instr .initW2 := .inl ⟨by simpa using hi, .inr rfl⟩
    have hrun := (run_succ (move_step hsecond)).trans (run_one (step_transfer hw2 hwait2 rfl))
    obtain ⟨hanswers, htarget, hdraw⟩ :=
      State.consume_congr (s := s) (u := s.applyWrite) (by simp) (by simp) (by simp)
    refine .after (m := 2) (n := 1) hrun (by simp) (endsWithin_one_of_last hw2 hwait2 rfl ?_ nofun)
    exact State.answer_ne_none_of_env_eq ha' hanswers htarget hdraw

/-- Whatever operation waits, three steps suffice when this answer and the next come. -/
theorem endsWithin_three_of_waits (ha' : s.consume.answer ≠ none) : EndsWithin 3 s := by
  by_cases hp : s.phase = .initW1
  · exact endsWithin_three_of_initW1 hw hwait hq ha hp ha'
  · exact (endsWithin_one_of_last hw hwait hq ha hp).mono (by decide)

end

/-- Settles O48: in EXEC an operation responds, or two steps lead to the wait for its first answer. -/
theorem operationEndsIfTheBusAnswers : Obligations.OperationEndsIfTheBusAnswers := by
  unfold Obligations.OperationEndsIfTheBusAnswers
  intro s hw hp ha ha'
  show EndsWithin 5 s
  rcases responds_or_issues s with ⟨r, hr⟩ | ⟨p, b, hissues⟩
  · exact (EndsWithin.of_step (move_step (.respond r hw.1 hp hr)) rfl rfl).mono (by decide)
  · obtain ⟨hanswers, htarget, hdraw⟩ := State.consume_congr (s := s)
      (u := { ({ s with blk := b }).issue p with reqValid := false }) rfl rfl rfl
    refine .after (m := 2) (n := 3) (run_issue hw hp hissues) rfl
      (endsWithin_three_of_waits hw hissues.waits rfl ?_ ?_)
    · exact State.answer_ne_none_of_env_eq ha rfl rfl rfl
    · exact State.answer_ne_none_of_env_eq ha' hanswers htarget hdraw

end Sys2Proof.Machine
end
